-- ==== Sys2Proof/Word.lean ====
section
/-! DEFINITION. The word types of the ucPack core (spec/00_scope.md R11, R12). -/

namespace Sys2Proof

/-- `u8`: a data byte, a message code, an 8-bit register (00_scope.md R12). -/
abbrev Byte := BitVec 8

/-- `u16`: an index operand or an int16 bit pattern (30_encoding.md R74). -/
abbrev Half := BitVec 16

/-- `u32`: an argument, a result, a float32 bit pattern (30_encoding.md R71, R72). -/
abbrev Word := BitVec 32

/-- A command word `OP[39:32] ARG[31:0]` (30_encoding.md R71). -/
abbrev CommandWord := BitVec 40

/-- A response word `STATUS[39:32] RESULT[31:0]` (30_encoding.md R72). -/
abbrev ResponseWord := BitVec 40

end Sys2Proof
end

