-- ==== Sys2Proof/Syntax.lean ====
section
/-! DEFINITION. The commands of the core, one constructor per row of spec/opcode_table.json (spec/30_encoding.md R76), and
the syntax around them: operand forms, contract errors, pseudo-commands (R82) and assembly lines (R81). -/

namespace Sys2Proof

/-- A well-formed command (30_encoding.md R76, R77). An operand has exactly the bits its form uses (R73), so a command with a
non-zero reserved bit is no term of this type: such a word is refused by the decoder. -/
inductive Instr where
  /-- PUSH `b` (41_ring_buffer.md R101). -/
  | push (b : Byte)
  /-- POP (41_ring_buffer.md R102). -/
  | pop
  /-- PEEK `i` (41_ring_buffer.md R104). -/
  | peek (i : Half)
  /-- SIZE (41_ring_buffer.md R105). -/
  | size
  /-- ISEMPTY (41_ring_buffer.md R106). -/
  | isEmpty
  /-- CLEAR (41_ring_buffer.md R107). -/
  | clear
  /-- EXTRACT (43_frame_parser.md R140). -/
  | extract
  /-- CRC_CLR (42_crc8.md R123). -/
  | crcClr
  /-- CRC_UPD `b` (42_crc8.md R124). -/
  | crcUpd (b : Byte)
  /-- CRC_RD (42_crc8.md R125). -/
  | crcRd
  /-- ENC_BEGIN `c` (44_encoder.md R170). -/
  | encBegin (c : Byte)
  /-- ENC_U8 `b` (44_encoder.md R171). -/
  | encU8 (b : Byte)
  /-- ENC_I16 `h` (44_encoder.md R172). -/
  | encI16 (h : Half)
  /-- ENC_F32 `w` (44_encoder.md R173). -/
  | encF32 (w : Word)
  /-- ENC_END (44_encoder.md R174). -/
  | encEnd
  /-- TX_LEN (44_encoder.md R175). -/
  | txLen
  /-- TX_RD `i` (44_encoder.md R176). -/
  | txRd (i : Half)
  /-- RX_LEN (45_decoder.md R190). -/
  | rxLen
  /-- RX_RD `i` (45_decoder.md R191). -/
  | rxRd (i : Half)
  /-- DEC_BEGIN (45_decoder.md R192). -/
  | decBegin
  /-- DEC_U8 (45_decoder.md R193). -/
  | decU8
  /-- DEC_I16 (45_decoder.md R194). -/
  | decI16
  /-- DEC_F32 (45_decoder.md R195). -/
  | decF32
  /-- ERR_RD (46_status.md R210). -/
  | errRd
  deriving DecidableEq, Repr

/-- The operand form of a command (30_encoding.md R73): none, byte, half, word. -/
inductive Form where
  | n
  | b
  | h
  | w
  deriving DecidableEq, Repr

/-- The contract errors (60_exceptions.md R220, R221), in the order of their status codes 0x80 to 0x85. -/
inductive ContractError where
  /-- ERR_ILLEGAL: an unassigned opcode. -/
  | illegal
  /-- ERR_RESERVED: a non-zero reserved bit of ARG. -/
  | reserved
  /-- ERR_RANGE: an index out of range. -/
  | range
  /-- ERR_SEQ: a command out of sequence. -/
  | seq
  /-- ERR_ENC_OVF: a field would make the payload longer than 255 bytes. -/
  | encOvf
  /-- ERR_DEC_SHORT: the payload is shorter than the field being decoded needs. -/
  | decShort
  deriving DecidableEq, Repr

/-- One typed field of a payload after the code (00_scope.md section 6): a byte, an int16 pattern, a float32 pattern. -/
inductive Field where
  | u8 (b : Byte)
  | i16 (h : Half)
  | f32 (w : Word)
  deriving DecidableEq, Repr

/-- The pseudo-commands of 30_encoding.md R82. READ_FRAME's expansion names TXLEN, so it is given the TXLEN that the host has
read. -/
inductive Pseudo where
  | sendBytes (c : Byte) (bs : List Byte)
  | sendInts (c : Byte) (hs : List Half)
  | sendFloats (c : Byte) (ws : List Word)
  | sendBytesFloats (c : Byte) (bs : List Byte) (ws : List Word)
  | recvBytes (n : Nat)
  | recvInts (n : Nat)
  | recvFloats (n : Nat)
  | recvBytesFloats (m n : Nat)
  | feed (bs : List Byte)
  | readFrame (txLen : Half)
  deriving DecidableEq, Repr

/-- A literal of an assembly line (30_encoding.md R81): its sign, whether it is hexadecimal, and its magnitude. -/
structure Literal where
  negative : Bool
  hex : Bool
  magnitude : Nat
  deriving DecidableEq, Repr

end Sys2Proof
end

