-- ==== Sys2Proof/WellFormed.lean ====
section
/-! DEFINITION. The checks that a command, a literal and a pseudo-command are well formed (spec/30_encoding.md R81, R82).
A term of `Instr` is well formed by its type; the check of a command WORD (R76) is `wordWellFormed` of Sys2Proof/Decode.lean. -/

namespace Sys2Proof

/-- The operand of a form B command is 0..255 (30_encoding.md R81). -/
def litByteOk (l : Literal) : Bool := !l.negative && decide (l.magnitude ≤ 255)

/-- The index of a form H command is 0..65535 (30_encoding.md R81). -/
def litIndexOk (l : Literal) : Bool := !l.negative && decide (l.magnitude ≤ 65535)

/-- The operand of ENC_I16 is -32768..32767 signed, or 0..65535 unsigned (30_encoding.md R81). -/
def litInt16Ok (l : Literal) : Bool :=
  if l.negative then decide (l.magnitude ≤ 32768) else decide (l.magnitude ≤ 65535)

/-- The operand of ENC_F32 is a 32-bit pattern in hexadecimal (30_encoding.md R81). -/
def litFloatOk (l : Literal) : Bool := !l.negative && l.hex && decide (l.magnitude < 2 ^ 32)

/-- The admitted counts of each pseudo-command, which follow from `LEN <= 255` and the code byte (30_encoding.md R82). -/
def Pseudo.wellFormed : Pseudo → Bool
  | .sendBytes _ bs => decide (bs.length ≤ 254)
  | .sendInts _ hs => decide (hs.length ≤ 127)
  | .sendFloats _ ws => decide (ws.length ≤ 63)
  | .sendBytesFloats _ bs ws => decide (bs.length + 4 * ws.length ≤ 254)
  | .recvBytes n => decide (n ≤ 254)
  | .recvInts n => decide (n ≤ 127)
  | .recvFloats n => decide (n ≤ 63)
  | .recvBytesFloats m n => decide (m + 4 * n ≤ 254)
  | .feed _ => true
  | .readFrame _ => true

end Sys2Proof
end

