-- ==== Sys2Proof/Decode.lean ====
section
/-! DEFINITION. The decoder and the encoder of command words (spec/30_encoding.md R71 to R79). Decoding is total: a word is a
well-formed command, an ERR_ILLEGAL word or an ERR_RESERVED word (R77). -/

namespace Sys2Proof

/-- The `OP` field, bits 39:32 (30_encoding.md R71). -/
def opField (c : CommandWord) : Byte := c.extractLsb' 32 8

/-- The `ARG` field, bits 31:0 (30_encoding.md R71). -/
def argField (c : CommandWord) : Word := c.extractLsb' 0 32

/-- The bits of `ARG` that a form uses (30_encoding.md R76). -/
def usedMask : Form → Word
  | .n => 0x00000000
  | .b => 0x000000FF
  | .h => 0x0000FFFF
  | .w => 0xFFFFFFFF

/-- `b = ARG[7:0]`, the operand of form B (30_encoding.md R73, R74). -/
def byteOperand (arg : Word) : Byte := arg.extractLsb' 0 8

/-- `h = ARG[15:0]`, the operand of form H (30_encoding.md R73, R74). -/
def halfOperand (arg : Word) : Half := arg.extractLsb' 0 16

/-- One row of the opcode map (30_encoding.md R76): the opcode, its form, and the command that its operand makes. -/
structure OpcodeRow where
  op : Byte
  form : Form
  build : Word → Instr

/-- The opcode map of 30_encoding.md R76, row by row. -/
def opcodeMap : List OpcodeRow :=
  [ ⟨0x10, .b, fun a => .push (byteOperand a)⟩,
    ⟨0x11, .n, fun _ => .pop⟩,
    ⟨0x12, .h, fun a => .peek (halfOperand a)⟩,
    ⟨0x13, .n, fun _ => .size⟩,
    ⟨0x14, .n, fun _ => .isEmpty⟩,
    ⟨0x15, .n, fun _ => .clear⟩,
    ⟨0x20, .n, fun _ => .extract⟩,
    ⟨0x30, .n, fun _ => .crcClr⟩,
    ⟨0x31, .b, fun a => .crcUpd (byteOperand a)⟩,
    ⟨0x32, .n, fun _ => .crcRd⟩,
    ⟨0x40, .b, fun a => .encBegin (byteOperand a)⟩,
    ⟨0x41, .b, fun a => .encU8 (byteOperand a)⟩,
    ⟨0x42, .h, fun a => .encI16 (halfOperand a)⟩,
    ⟨0x43, .w, fun a => .encF32 a⟩,
    ⟨0x44, .n, fun _ => .encEnd⟩,
    ⟨0x45, .n, fun _ => .txLen⟩,
    ⟨0x46, .h, fun a => .txRd (halfOperand a)⟩,
    ⟨0x50, .n, fun _ => .rxLen⟩,
    ⟨0x51, .h, fun a => .rxRd (halfOperand a)⟩,
    ⟨0x52, .n, fun _ => .decBegin⟩,
    ⟨0x53, .n, fun _ => .decU8⟩,
    ⟨0x54, .n, fun _ => .decI16⟩,
    ⟨0x55, .n, fun _ => .decF32⟩,
    ⟨0x60, .n, fun _ => .errRd⟩ ]

/-- The row that an opcode selects, `none` for an unassigned opcode (30_encoding.md R78). -/
def rowOf (op : Byte) : Option OpcodeRow := opcodeMap.find? fun r => r.op == op

/-- The decoder (30_encoding.md R77): the opcode is looked up first, then the reserved bits of ARG are checked. -/
def decode (c : CommandWord) : Except ContractError Instr :=
  match rowOf (opField c) with
  | none => .error .illegal
  | some r =>
    if argField c &&& ~~~ usedMask r.form = 0 then .ok (r.build (argField c)) else .error .reserved

/-- A command word is well formed when its opcode is assigned and its reserved bits are 0 (30_encoding.md R76). -/
def wordWellFormed (c : CommandWord) : Bool :=
  match rowOf (opField c) with
  | none => false
  | some r => argField c &&& ~~~ usedMask r.form == 0

/-- The opcode of a command (30_encoding.md R76). -/
def Instr.opcode : Instr → Byte
  | .push _ => 0x10
  | .pop => 0x11
  | .peek _ => 0x12
  | .size => 0x13
  | .isEmpty => 0x14
  | .clear => 0x15
  | .extract => 0x20
  | .crcClr => 0x30
  | .crcUpd _ => 0x31
  | .crcRd => 0x32
  | .encBegin _ => 0x40
  | .encU8 _ => 0x41
  | .encI16 _ => 0x42
  | .encF32 _ => 0x43
  | .encEnd => 0x44
  | .txLen => 0x45
  | .txRd _ => 0x46
  | .rxLen => 0x50
  | .rxRd _ => 0x51
  | .decBegin => 0x52
  | .decU8 => 0x53
  | .decI16 => 0x54
  | .decF32 => 0x55
  | .errRd => 0x60

/-- The operand form of a command (30_encoding.md R76). -/
def Instr.form : Instr → Form
  | .push _ | .crcUpd _ | .encBegin _ | .encU8 _ => .b
  | .peek _ | .encI16 _ | .txRd _ | .rxRd _ => .h
  | .encF32 _ => .w
  | .pop | .size | .isEmpty | .clear | .extract | .crcClr | .crcRd | .encEnd | .txLen | .rxLen
  | .decBegin | .decU8 | .decI16 | .decF32 | .errRd => .n

/-- The ARG of a command: its operand, and 0 in every reserved bit (30_encoding.md R73, R74). -/
def Instr.arg : Instr → Word
  | .push b | .crcUpd b | .encBegin b | .encU8 b => b.setWidth 32
  | .peek h | .encI16 h | .txRd h | .rxRd h => h.setWidth 32
  | .encF32 w => w
  | .pop | .size | .isEmpty | .clear | .extract | .crcClr | .crcRd | .encEnd | .txLen | .rxLen
  | .decBegin | .decU8 | .decI16 | .decF32 | .errRd => 0

/-- The encoder: the word `OP << 32 | ARG` of a command (30_encoding.md R71, R81). -/
def encode (i : Instr) : CommandWord := i.opcode.setWidth 40 <<< 32 ||| i.arg.setWidth 40

/-- The command the decoder reads from a word of `nbits` bits numbered as spec/opcode_table.json numbers them (bit 0 the least
significant bit of the 40-bit word), every bit above `nbits` being 0; `none` where the decoder refuses the word. -/
def decodeTableWord (nbits w : Nat) : Option Instr :=
  match decode (BitVec.ofNat 40 (w % 2 ^ nbits)) with
  | .ok i => some i
  | .error _ => none

end Sys2Proof
end

