-- ==== Sys2Proof/Config.lean ====
section
/-! DEFINITION. The instantiation parameters of the core: START, STOP and CAP (spec/00_scope.md R6 to R8). -/

namespace Sys2Proof.Config

/-- `CAP`, the ring-buffer capacity, an integer with `1 <= CAP <= 65535` (00_scope.md R8).
It is held as one less, so that every value of the type is admitted by the rule. -/
structure Capacity where
  pred : Fin 65535
  deriving DecidableEq, Repr

/-- The number of bytes of a capacity: 1 to 65535 (00_scope.md R8). -/
def Capacity.bytes (c : Capacity) : Nat := c.pred.val + 1

/-- The three instantiation parameters, fixed before the first reset (70_reset_and_hazards.md R252). `START = STOP` is
admitted (00_scope.md R7). -/
structure Params where
  start : Byte
  stop : Byte
  cap : Capacity
  deriving DecidableEq, Repr

/-- START of the machine that `State.reset` describes: an OPEN parameter (00_scope.md R6), so it has no body. Log 1. -/
opaque start : Byte

/-- STOP of the machine that `State.reset` describes: an OPEN parameter (00_scope.md R7), so it has no body. Log 1. -/
opaque stop : Byte

/-- CAP - 1 of the machine that `State.reset` describes: an OPEN parameter (00_scope.md R8), so it has no body. Log 1. -/
opaque capPred : Fin 65535

/-- The parameters of the machine that `State.reset` describes. -/
def params : Params where
  start := start
  stop := stop
  cap := { pred := capPred }

end Sys2Proof.Config
end

