-- ==== Sys2Proof/Machine/State.lean ====
section
/-! DEFINITION. The state of the ucPack core (spec/10_state.md), as plain data, and its value after reset (spec/70_reset_and_hazards.md R250). -/

namespace Sys2Proof.Machine

/-- A byte store, RXPAY or TXBUF (20_memory.md R50): the bytes that hold a value, as (index, byte) pairs with strictly rising
indices. An index that is not listed holds no value (10_state.md R27, R31; log 4). -/
abbrev Memory := List Host.Cell

/-- The outcome codes of a command (60_exceptions.md R220). -/
inductive Status where
  /-- OK: the command did what its rule says. -/
  | ok
  /-- EMPTY: POP on an empty buffer. -/
  | empty
  /-- FULL: PUSH on a full buffer; the byte was dropped. -/
  | full
  /-- NOFRAME: EXTRACT found no complete valid frame. -/
  | noFrame
  /-- FRAME: EXTRACT extracted a frame. -/
  | frame
  /-- A contract error, 0x80 to 0x85. -/
  | error (e : ContractError)
  deriving DecidableEq, Repr

/-- One response (30_encoding.md R72). -/
structure Response where
  status : Status
  result : Word
  deriving DecidableEq, Repr

/-- What the world outside does to the core next (60_exceptions.md R240, 70_reset_and_hazards.md R251). -/
inductive Input where
  /-- The host presents this command word on the command port. -/
  | command (w : CommandWord)
  /-- The platform applies reset, between two commands. -/
  | reset
  deriving DecidableEq, Repr

/-- The state of the core (10_state.md section 1), and the model's own fields `par`, `inputs` and `responses`.
COUNT is the length of `rb` (10_state.md R21; log 6). -/
structure State where
  /-- START, STOP and CAP, which no step changes (70_reset_and_hazards.md R252). The model's own field: log 1. -/
  par : Config.Params
  /-- RB, the ring buffer, oldest byte first (10_state.md R21). -/
  rb : List Byte
  /-- CRCACC (10_state.md R24). -/
  crcAcc : Byte
  /-- RX_VALID (10_state.md R25). -/
  rxValid : Bool
  /-- RXLEN (10_state.md R26). -/
  rxLen : Byte
  /-- RXPAY, indices 0..254 (10_state.md R27). -/
  rxPay : Memory
  /-- DEC_CUR (10_state.md R28). -/
  decCur : Byte
  /-- ENC_ACTIVE (10_state.md R29). -/
  encActive : Bool
  /-- ENC_LEN (10_state.md R30). -/
  encLen : Byte
  /-- TXBUF, indices 0..258 (10_state.md R31). -/
  txBuf : Memory
  /-- TX_READY (10_state.md R32). -/
  txReady : Bool
  /-- TXLEN (10_state.md R33). -/
  txLen : Half
  /-- ERRFLAGS (10_state.md R34). Read it through `State.errFlagsRead`, which hardwires bits 7:6 to 0. -/
  errFlags : Byte
  /-- What the host and the platform do next, in order (60_exceptions.md R242). The model's own field: log 2. -/
  inputs : List Input
  /-- The responses since the last reset, oldest first (60_exceptions.md R242). The model's own field: log 3. -/
  responses : List Response
  deriving DecidableEq, Repr

/-- Why a step stops. Both are raised only by a read of a store byte that holds no value, which no state that a run from reset
reaches can make (10_state.md R27, R31; 93_implementation_defined.md section 1); log 4. -/
inductive Fault where
  /-- Raised by RX_RD and by DEC_BEGIN, DEC_U8, DEC_I16 and DEC_F32 where an RXPAY byte they read holds no value. Safe: the
  model stops where the spec says that no command reads. -/
  | rxPayHoldsNoValue
  /-- Raised by TX_RD and ENC_END where a TXBUF byte they read holds no value. Safe: the model stops where the spec says that no
  command reads. -/
  | txBufHoldsNoValue
  deriving DecidableEq, Repr

/-- Why a step has no meaning. -/
inductive Refusal where
  /-- An instruction that the model gives no meaning, raised by no arm of `exec`: every row of the opcode table has its meaning.
  Safe. -/
  | notModelled (mnemonic : String)
  deriving DecidableEq, Repr

/-- The state after reset for the given parameters (70_reset_and_hazards.md R250, R252): every register at its reset value, no
byte of RXPAY or TXBUF holding a value. -/
def State.resetWith (p : Config.Params) : State where
  par := p
  rb := []
  crcAcc := 0x00
  rxValid := false
  rxLen := 0
  rxPay := []
  decCur := 0
  encActive := false
  encLen := 0
  txBuf := []
  txReady := false
  txLen := 0
  errFlags := 0x00
  inputs := []
  responses := []

/-- The state after reset (70_reset_and_hazards.md R250), for the OPEN parameters of Config. -/
def State.reset : State := State.resetWith Config.params

end Sys2Proof.Machine
end

