-- ==== Sys2Proof/Machine/Flags.lean ====
section
/-! DEFINITION. Status codes, ERRFLAGS and the response (spec/60_exceptions.md R220 to R224, spec/10_state.md R34). The core has no
condition codes (spec/10_state.md R37). -/

namespace Sys2Proof.Machine

/-- `k` of the contract error with status `0x80 + k`, which is also its bit of ERRFLAGS (10_state.md R34, 60_exceptions.md R221). -/
def errIndex : ContractError → Nat
  | .illegal => 0
  | .reserved => 1
  | .range => 2
  | .seq => 3
  | .encOvf => 4
  | .decShort => 5

/-- The bit of ERRFLAGS that a contract error sets (10_state.md R34). -/
def errBit (e : ContractError) : Byte := (1 : Byte) <<< errIndex e

/-- The STATUS byte of an outcome (60_exceptions.md R220). -/
def statusCode : Status → Byte
  | .ok => 0x00
  | .empty => 0x01
  | .full => 0x02
  | .noFrame => 0x03
  | .frame => 0x04
  | .error e => 0x80 + BitVec.ofNat 8 (errIndex e)

/-- The 40-bit response word `STATUS RESULT` (30_encoding.md R72). -/
def responseWord (r : Response) : ResponseWord :=
  (statusCode r.status).setWidth 40 <<< 32 ||| r.result.setWidth 40

/-- ERRFLAGS as it reads: bits 7:6 are hardwired 0 (10_state.md R34). -/
def State.errFlagsRead (s : State) : Byte := s.errFlags &&& 0x3F

/-- `ERRFLAGS[E - 0x80] <- 1` (00_scope.md R15): the bit is sticky. -/
def State.setErrFlag (e : ContractError) (s : State) : State := { s with errFlags := s.errFlags ||| errBit e }

/-- `respond(s, r)` (00_scope.md R15): the command ends with this response. -/
def State.respond (st : Status) (r : Word) (s : State) : State :=
  { s with responses := s.responses ++ [⟨st, r⟩] }

end Sys2Proof.Machine
end

