-- ==== Sys2Proof/Machine/Operands.lean ====
section
/-! DEFINITION. Operand and result assembly (spec/30_encoding.md R74, R75): nothing is sign-extended, scaled or shifted. -/

namespace Sys2Proof.Machine

/-- `i = zext_32(ARG[15:0])`, an index operand (30_encoding.md R74), as the natural number that indexes a store (20_memory.md R50). -/
def indexOperand (i : Half) : Nat := i.toNat

/-- The form W value that ENC_U8 carries: `b` in bits 7:0 (30_encoding.md R74). -/
def byteValue (b : Byte) : Word := b.setWidth 32

/-- The form W value that ENC_I16 carries: the int16 pattern in bits 15:0, not sign-extended (30_encoding.md R74). -/
def halfValue (h : Half) : Word := h.setWidth 32

/-- A byte result, `zext_32` (30_encoding.md R75). -/
def byteResult (b : Byte) : Word := b.setWidth 32

/-- A length result, `zext_32` of the length (30_encoding.md R75). -/
def lengthResult (n : Nat) : Word := BitVec.ofNat 32 n

/-- A flag result, 0 or 1 (30_encoding.md R75). -/
def flagResult (f : Bool) : Word := if f then 1 else 0

end Sys2Proof.Machine
end

