-- ==== Sys2Proof/Machine/Ops.lean ====
section
/-! DEFINITION. The operations the commands are written with: the byte stores (spec/20_memory.md), the ring buffer
(spec/41_ring_buffer.md R100), the shared ways a command ends (spec/00_scope.md R15) and reset (spec/70_reset_and_hazards.md R250). -/

namespace Sys2Proof.Machine

/-- What a command or a step answers. -/
abbrev Result := Host.Outcome State Fault Refusal

/-- The number of bytes of RXPAY (00_scope.md R9, 10_state.md R27). -/
def rxPaySize : Nat := 255

/-- The number of bytes of TXBUF (00_scope.md R9, 10_state.md R31). -/
def txBufSize : Nat := 259

/-! ### Byte stores -/

/-- The byte at index `a`; `none` where it holds no value. -/
def Memory.read : Memory → Nat → Option Byte
  | [], _ => none
  | (k, v) :: m, a => if a = k then some v else Memory.read m a

/-- `S[a] <- v`. -/
def Memory.write : Memory → Nat → Byte → Memory
  | [], a, v => [(a, v)]
  | (k, u) :: m, a, v =>
    if a < k then (a, v) :: (k, u) :: m
    else if a = k then (a, v) :: m
    else (k, u) :: Memory.write m a v

/-- `S[a + k] <- bs[k]` for every byte of `bs`, in rising order. -/
def Memory.writeBytes : Memory → Nat → List Byte → Memory
  | m, _, [] => m
  | m, a, b :: bs => Memory.writeBytes (Memory.write m a b) (a + 1) bs

/-- The bytes `S[a .. a+n)`; `none` where one of them holds no value. -/
def Memory.readBytes : Memory → Nat → Nat → Option (List Byte)
  | _, _, 0 => some []
  | m, a, n + 1 =>
    match Memory.read m a with
    | none => none
    | some b =>
      match Memory.readBytes m (a + 1) n with
      | none => none
      | some bs => some (b :: bs)

/-- The indices rise strictly, from `lo` on. -/
def Memory.risingFrom : Nat → Memory → Bool
  | _, [] => true
  | lo, (k, _) :: m => decide (lo ≤ k) && Memory.risingFrom (k + 1) m

/-- The canonical form of a store of `size` bytes: strictly rising indices, all below `size`. -/
def Memory.wf (size : Nat) (m : Memory) : Bool := Memory.risingFrom 0 m && m.all fun c => decide (c.1 < size)

/-- The low `n` bytes of a value in little-endian order: `v[7:0]` first (20_memory.md R52). -/
def leBytes (n : Nat) (v : Word) : List Byte := (List.range n).map fun k => v.extractLsb' (8 * k) 8

/-- The value of bytes in little-endian order: the first byte is bits 7:0 (20_memory.md R52). -/
def leValue : List Byte → Word
  | [] => 0
  | b :: bs => (leValue bs <<< 8) ||| b.setWidth 32

/-- `MemWrite(S, a, n, v)` (00_scope.md R15). -/
def Memory.memWrite (m : Memory) (a n : Nat) (v : Word) : Memory := Memory.writeBytes m a (leBytes n v)

/-- `MemRead(S, a, n)` (00_scope.md R15); `none` where one of the bytes holds no value. -/
def Memory.memRead (m : Memory) (a n : Nat) : Option Word := (Memory.readBytes m a n).map leValue

/-! ### The ring buffer -/

/-- COUNT (10_state.md R21). -/
def State.count (s : State) : Nat := s.rb.length

/-- CAP (00_scope.md R8). -/
def State.cap (s : State) : Nat := s.par.cap.bytes

/-- Replaces RB, and COUNT with it. -/
def State.setRb (l : List Byte) (s : State) : State := { s with rb := l }

/-- `append(b)` (41_ring_buffer.md R100). -/
def State.append (b : Byte) (s : State) : State := s.setRb (s.rb ++ [b])

/-- `drop_front()`, `n` times (41_ring_buffer.md R100). -/
def State.dropFront (n : Nat) (s : State) : State := s.setRb (s.rb.drop n)

/-! ### How a command ends -/

/-- The command ends normally with this response (00_scope.md R15). -/
def finish (st : Status) (r : Word) (s : State) : Result := .next (s.respond st r)

/-- A contract error, the one shared operation that signals it (60_exceptions.md R224): the response is the error with
`RESULT = 0`, its bit of ERRFLAGS is set, and nothing else changes. The core has no trap: there is no pc, status or mode to save
and nothing to return from (60_exceptions.md R225). -/
def State.raiseErr (e : ContractError) (s : State) : State := (s.setErrFlag e).respond (.error e) 0

/-- `raise Err(E)` (00_scope.md R15). -/
def raise (e : ContractError) (s : State) : Result := .next (s.raiseErr e)

/-! ### The receive view -/

/-- `RX_VALID <- 0` (43_frame_parser.md R147). -/
def State.endRxView (s : State) : State := { s with rxValid := false }

/-- Step 7 of EXTRACT: the payload is copied to `RXPAY[0..L)` and `RXLEN <- L` (43_frame_parser.md R145). -/
def State.copyPayload (l : Byte) (p : List Byte) (s : State) : State :=
  { s with rxPay := Memory.writeBytes s.rxPay 0 p, rxLen := l }

/-- `RX_VALID <- 1`, `DEC_CUR <- 0` (43_frame_parser.md R146). -/
def State.openRxView (s : State) : State := { s with rxValid := true, decCur := 0 }

/-- Writes DEC_CUR (10_state.md R28). -/
def State.setDecCur (c : Byte) (s : State) : State := { s with decCur := c }

/-! ### The CRC accumulator -/

/-- Writes CRCACC (10_state.md R24). -/
def State.setCrcAcc (c : Byte) (s : State) : State := { s with crcAcc := c }

/-! ### The encoder -/

/-- The writes of ENC_BEGIN (44_encoder.md R170). -/
def State.beginEncode (b : Byte) (s : State) : State :=
  { s with
    txReady := false
    txBuf := (s.txBuf.write 0 s.par.start).write 2 b
    encLen := 1
    encActive := true }

/-- The index in TXBUF that the next payload byte goes to, `2 + ENC_LEN` (44_encoder.md R171). -/
def State.fieldIndex (s : State) : Nat := 2 + s.encLen.toNat

/-- The writes of a field command of `n` bytes (44_encoder.md R171 to R173). -/
def State.putField (n : Nat) (v : Word) (s : State) : State :=
  { s with
    txBuf := s.txBuf.memWrite s.fieldIndex n v
    encLen := s.encLen + BitVec.ofNat 8 n }

/-- TXBUF after ENC_END's writes of LEN, STOP and then the CRC8 `crc`, for `L = ENC_LEN` (44_encoder.md R174). -/
def State.txBufWithLenStop (s : State) : Memory :=
  (s.txBuf.write 1 s.encLen).write (2 + s.encLen.toNat) s.par.stop

/-- The writes of ENC_END once the CRC8 of the payload is known (44_encoder.md R174). -/
def State.finishFrame (crc : Byte) (s : State) : State :=
  { s with
    txBuf := s.txBufWithLenStop.write (3 + s.encLen.toNat) crc
    txLen := BitVec.ofNat 16 (4 + s.encLen.toNat)
    txReady := true
    encActive := false }

/-! ### The outside world -/

/-- The state in which the event at the head of `inputs` has been taken from the port and `rest` remains (log 2). -/
def State.takeInput (rest : List Input) (s : State) : State := { s with inputs := rest }

/-- Reset, applied by the platform between commands (70_reset_and_hazards.md R250 to R252): every register takes its reset value,
the parameters stay, and a new run begins, so that its responses are counted from here (60_exceptions.md R242; log 12). -/
def State.applyReset (rest : List Input) (s : State) : State := (State.resetWith s.par).takeInput rest

/-- The command word as the host presents it: the table's bits, bit 0 the least significant (30_encoding.md R71, R76). -/
def presentedWord (nbits w : Nat) : CommandWord := BitVec.ofNat 40 (w % 2 ^ nbits)

end Sys2Proof.Machine
end

