-- ==== Sys2Proof/Machine/Crc8.lean ====
section
/-! DEFINITION. The CRC8 function and the stand-alone generator (spec/42_crc8.md). -/

namespace Sys2Proof.Machine

/-- One turn of `crc8_step`'s loop on the remainder `x` and the data `d` (42_crc8.md R121). -/
def crc8Bit (xd : Byte × Byte) : Byte × Byte :=
  let mix := (xd.1 ^^^ xd.2) &&& 0x01
  let x := xd.1 >>> 1
  (if mix = 1 then x ^^^ 0x8C else x, xd.2 >>> 1)

/-- `n` turns of the loop. -/
def crc8Bits : Nat → Byte × Byte → Byte × Byte
  | 0, xd => xd
  | n + 1, xd => crc8Bits n (crc8Bit xd)

/-- `crc8_step(c, b)`: folds one byte into the remainder, least significant bit first (42_crc8.md R121). -/
def crc8Step (c b : Byte) : Byte := (crc8Bits 8 (c, b)).1

/-- `crc8(S)`: seed 0, bytes in sequence order, no output transform (42_crc8.md R120). -/
def crc8 (bs : List Byte) : Byte := bs.foldl crc8Step 0x00

/-- CRC_CLR (42_crc8.md R123). -/
def execCrcClr (s : State) : Result := finish .ok 0 (s.setCrcAcc 0x00)

/-- CRC_UPD (42_crc8.md R124). -/
def execCrcUpd (b : Byte) (s : State) : Result := finish .ok 0 (s.setCrcAcc (crc8Step s.crcAcc b))

/-- CRC_RD (42_crc8.md R125). -/
def execCrcRd (s : State) : Result := finish .ok (byteResult s.crcAcc) s

end Sys2Proof.Machine
end

