-- ==== Sys2Proof/Machine/FrameParser.lean ====
section
/-! DEFINITION. The frame parser and resynchronizer, EXTRACT (spec/43_frame_parser.md). -/

namespace Sys2Proof.Machine

/-- Step 2: bytes are discarded from the front while the front byte is not START (43_frame_parser.md R141). -/
def dropNoise (start : Byte) (rb : List Byte) : List Byte := rb.dropWhile fun b => b != start

/-- What steps 3 to 8 find at the front of RB once the noise is gone (43_frame_parser.md R142 to R146). -/
inductive Candidate where
  /-- Steps 3 and 5: too few bytes, nothing more is discarded. -/
  | waiting
  /-- Step 6: the byte at offset `2 + L` is not STOP. -/
  | wrongStop
  /-- Step 8: the payload is copied, and its CRC8 is not the byte at offset `3 + L`. -/
  | badCrc (l : Byte) (payload : List Byte)
  /-- Step 9: a valid frame. -/
  | frame (l : Byte) (payload : List Byte)
  deriving DecidableEq, Repr

/-- The payload of a candidate with length byte `l`: offsets `2 .. 1 + L` (43_frame_parser.md section 1). -/
def candidatePayload (l : Byte) (rb : List Byte) : List Byte := (rb.drop 2).take l.toNat

/-- Steps 3 to 8 of EXTRACT (43_frame_parser.md R140). -/
def candidate (stop : Byte) (rb : List Byte) : Candidate :=
  match rb with
  | _ :: l :: _ =>
    if rb.length < 4 + l.toNat then .waiting
    else if rb[2 + l.toNat]? = some stop then
      if rb[3 + l.toNat]? = some (crc8 (candidatePayload l rb)) then .frame l (candidatePayload l rb)
      else .badCrc l (candidatePayload l rb)
    else .wrongStop
  | _ => .waiting

/-- Steps 3 to 9 of EXTRACT, on a state whose noise has been discarded (43_frame_parser.md R140). -/
def extractCandidate (s : State) : Result :=
  match candidate s.par.stop s.rb with
  | .waiting => finish .noFrame 0 s
  | .wrongStop => finish .noFrame 0 (s.dropFront 1)
  | .badCrc l p => finish .noFrame 0 ((s.copyPayload l p).dropFront 1)
  | .frame l p => finish .frame (byteResult l) ((s.copyPayload l p).dropFront (4 + l.toNat)).openRxView

/-- EXTRACT (43_frame_parser.md R140): RX_VALID is cleared first (R147), then the noise is discarded. -/
def execExtract (s : State) : Result :=
  extractCandidate (s.endRxView.setRb (dropNoise s.par.start s.rb))

end Sys2Proof.Machine
end

