-- ==== Sys2Proof/Machine/PayloadDecoder.lean ====
section
/-! DEFINITION. The receive payload view and the payload decoder (spec/45_decoder.md). -/

namespace Sys2Proof.Machine

/-- RX_LEN (45_decoder.md R190). -/
def execRxLen (s : State) : Result :=
  if s.rxValid = false then raise .seq s else finish .ok (lengthResult s.rxLen.toNat) s

/-- RX_RD (45_decoder.md R191): ERR_SEQ is checked first. -/
def execRxRd (i : Half) (s : State) : Result :=
  if s.rxValid = false then raise .seq s
  else if indexOperand i ≥ s.rxLen.toNat then raise .range s
  else
    match s.rxPay.read (indexOperand i) with
    | none => .fault .rxPayHoldsNoValue
    | some b => finish .ok (byteResult b) s

/-- DEC_BEGIN (45_decoder.md R192). -/
def execDecBegin (s : State) : Result :=
  if s.rxValid = false then raise .seq s
  else if s.rxLen.toNat < 1 then raise .decShort s
  else
    match s.rxPay.read 0 with
    | none => .fault .rxPayHoldsNoValue
    | some b => finish .ok (byteResult b) (s.setDecCur 1)

/-- A field read of `n` bytes at the cursor (45_decoder.md R193 to R195): ERR_SEQ first, then ERR_DEC_SHORT; the value is
zero-extended to 32 bits (R197). -/
def decodeField (n : Nat) (s : State) : Result :=
  if s.rxValid = false ∨ s.decCur = 0 then raise .seq s
  else if s.decCur.toNat + n > s.rxLen.toNat then raise .decShort s
  else
    match s.rxPay.memRead s.decCur.toNat n with
    | none => .fault .rxPayHoldsNoValue
    | some v => finish .ok v (s.setDecCur (s.decCur + BitVec.ofNat 8 n))

/-- DEC_U8 (45_decoder.md R193). -/
def execDecU8 (s : State) : Result := decodeField 1 s

/-- DEC_I16 (45_decoder.md R194). -/
def execDecI16 (s : State) : Result := decodeField 2 s

/-- DEC_F32 (45_decoder.md R195). -/
def execDecF32 (s : State) : Result := decodeField 4 s

end Sys2Proof.Machine
end

