-- ==== Sys2Proof/Machine/PayloadEncoder.lean ====
section
/-! DEFINITION. The payload encoder and the transmit frame view (spec/44_encoder.md). -/

namespace Sys2Proof.Machine

/-- ENC_BEGIN (44_encoder.md R170). -/
def execEncBegin (c : Byte) (s : State) : Result := finish .ok 0 (s.beginEncode c)

/-- A field command of `n` bytes with value `v` (44_encoder.md R171 to R173): ERR_SEQ first, then ERR_ENC_OVF. -/
def encodeField (n : Nat) (v : Word) (s : State) : Result :=
  if s.encActive = false then raise .seq s
  else if s.encLen.toNat + n > 255 then raise .encOvf s
  else finish .ok 0 (s.putField n v)

/-- ENC_U8 (44_encoder.md R171). -/
def execEncU8 (b : Byte) (s : State) : Result := encodeField 1 (byteValue b) s

/-- ENC_I16 (44_encoder.md R172). -/
def execEncI16 (h : Half) (s : State) : Result := encodeField 2 (halfValue h) s

/-- ENC_F32 (44_encoder.md R173): the pattern is carried bit for bit. -/
def execEncF32 (w : Word) (s : State) : Result := encodeField 4 w s

/-- ENC_END (44_encoder.md R174): the CRC8 is over `TXBUF[2 .. 2+L)` after LEN and STOP are written. -/
def execEncEnd (s : State) : Result :=
  if s.encActive = false then raise .seq s
  else
    match s.txBufWithLenStop.readBytes 2 s.encLen.toNat with
    | none => .fault .txBufHoldsNoValue
    | some p => finish .ok (lengthResult (4 + s.encLen.toNat)) (s.finishFrame (crc8 p))

/-- TX_LEN (44_encoder.md R175). -/
def execTxLen (s : State) : Result :=
  if s.txReady = false then raise .seq s else finish .ok (lengthResult s.txLen.toNat) s

/-- TX_RD (44_encoder.md R176): ERR_SEQ is checked first. -/
def execTxRd (i : Half) (s : State) : Result :=
  if s.txReady = false then raise .seq s
  else if indexOperand i ≥ s.txLen.toNat then raise .range s
  else
    match s.txBuf.read (indexOperand i) with
    | none => .fault .txBufHoldsNoValue
    | some b => finish .ok (byteResult b) s

end Sys2Proof.Machine
end

