-- ==== Sys2Proof/Machine/RingBuffer.lean ====
section
/-! DEFINITION. The ring buffer commands (spec/41_ring_buffer.md). -/

namespace Sys2Proof.Machine

/-- PUSH (41_ring_buffer.md R101, R103): a full buffer rejects the new byte. -/
def execPush (b : Byte) (s : State) : Result :=
  if s.count = s.cap then finish .full 0 s else finish .ok 0 (s.append b)

/-- POP (41_ring_buffer.md R102). -/
def execPop (s : State) : Result :=
  match s.rb with
  | [] => finish .empty 0 s
  | v :: _ => finish .ok (byteResult v) (s.dropFront 1)

/-- PEEK (41_ring_buffer.md R104). -/
def execPeek (i : Half) (s : State) : Result :=
  match s.rb[indexOperand i]? with
  | none => raise .range s
  | some b => finish .ok (byteResult b) s

/-- SIZE (41_ring_buffer.md R105). -/
def execSize (s : State) : Result := finish .ok (lengthResult s.count) s

/-- ISEMPTY (41_ring_buffer.md R106). -/
def execIsEmpty (s : State) : Result := finish .ok (flagResult (s.count == 0)) s

/-- CLEAR (41_ring_buffer.md R107). -/
def execClear (s : State) : Result := finish .ok 0 (s.setRb [])

end Sys2Proof.Machine
end

