-- ==== Sys2Proof/Machine/StatusRead.lean ====
section
/-! DEFINITION. The status command ERR_RD (spec/46_status.md). -/

namespace Sys2Proof.Machine

/-- ERR_RD (46_status.md R210): it does not clear ERRFLAGS. -/
def execErrRd (s : State) : Result := finish .ok (byteResult s.errFlagsRead) s

end Sys2Proof.Machine
end

