-- ==== Sys2Proof/Machine/Dispatch.lean ====
section
/-! DEFINITION. One arm per command: exec gives each command of spec/opcode_table.json its meaning. -/

namespace Sys2Proof.Machine

def exec (i : Instr) (s : State) : Host.Outcome State Fault Refusal :=
  match i with
  | .push b => Sys2Proof.Machine.execPush b s
  | .pop => Sys2Proof.Machine.execPop s
  | .peek n => Sys2Proof.Machine.execPeek n s
  | .size => Sys2Proof.Machine.execSize s
  | .isEmpty => Sys2Proof.Machine.execIsEmpty s
  | .clear => Sys2Proof.Machine.execClear s
  | .extract => Sys2Proof.Machine.execExtract s
  | .crcClr => Sys2Proof.Machine.execCrcClr s
  | .crcUpd b => Sys2Proof.Machine.execCrcUpd b s
  | .crcRd => Sys2Proof.Machine.execCrcRd s
  | .encBegin c => Sys2Proof.Machine.execEncBegin c s
  | .encU8 b => Sys2Proof.Machine.execEncU8 b s
  | .encI16 h => Sys2Proof.Machine.execEncI16 h s
  | .encF32 w => Sys2Proof.Machine.execEncF32 w s
  | .encEnd => Sys2Proof.Machine.execEncEnd s
  | .txLen => Sys2Proof.Machine.execTxLen s
  | .txRd n => Sys2Proof.Machine.execTxRd n s
  | .rxLen => Sys2Proof.Machine.execRxLen s
  | .rxRd n => Sys2Proof.Machine.execRxRd n s
  | .decBegin => Sys2Proof.Machine.execDecBegin s
  | .decU8 => Sys2Proof.Machine.execDecU8 s
  | .decI16 => Sys2Proof.Machine.execDecI16 s
  | .decF32 => Sys2Proof.Machine.execDecF32 s
  | .errRd => Sys2Proof.Machine.execErrRd s

end Sys2Proof.Machine
end

