-- ==== Sys2Proof/Machine/Step.lean ====
section
/-! DEFINITION. One step: the next event from outside, a command or a platform reset (spec/30_encoding.md R70, R77,
spec/70_reset_and_hazards.md R251). -/

namespace Sys2Proof.Machine

/-- One transaction (30_encoding.md R70). With no event from outside the core does nothing (60_exceptions.md R240; log 2). A word
that is no well-formed command ends in the contract error of its decoding (30_encoding.md R77). -/
def step (s : State) : Host.Outcome State Fault Refusal :=
  match s.inputs with
  | [] => .next s
  | .reset :: rest => .next (s.applyReset rest)
  | .command w :: rest =>
    match decode w with
    | .error e => raise e (s.takeInput rest)
    | .ok i => exec i (s.takeInput rest)

/-- `s` where the next thing that happens is that the host presents this command word (log 2). -/
def State.withFetchWord (s : State) (nbits w : Nat) : State :=
  s.takeInput (.command (presentedWord nbits w) :: s.inputs)

end Sys2Proof.Machine
end

