-- ==== Sys2Proof/Machine/Assembler.lean ====
section
/-! DEFINITION. The assembly syntax (spec/30_encoding.md R81) and the expansion of the pseudo-commands (R82). -/

namespace Sys2Proof.Machine

/-! ### Pseudo-commands -/

/-- The field command of a field (44_encoder.md R171 to R173). -/
def fieldCommand : Field → Instr
  | .u8 b => .encU8 b
  | .i16 h => .encI16 h
  | .f32 w => .encF32 w

/-- The decode command of a field's type (45_decoder.md R193 to R195). -/
def decodeCommand : Field → Instr
  | .u8 _ => .decU8
  | .i16 _ => .decI16
  | .f32 _ => .decF32

/-- `ENC_BEGIN c; <field commands>; ENC_END`, the general streamed encode (44_encoder.md R177). -/
def sendCommands (c : Byte) (fs : List Field) : List Instr := .encBegin c :: (fs.map fieldCommand ++ [.encEnd])

/-- The expansion of a pseudo-command (30_encoding.md R82). -/
def expandPseudo : Pseudo → List Instr
  | .sendBytes c bs => sendCommands c (bs.map .u8)
  | .sendInts c hs => sendCommands c (hs.map .i16)
  | .sendFloats c ws => sendCommands c (ws.map .f32)
  | .sendBytesFloats c bs ws => sendCommands c (bs.map .u8 ++ ws.map .f32)
  | .recvBytes n => .decBegin :: List.replicate n .decU8
  | .recvInts n => .decBegin :: List.replicate n .decI16
  | .recvFloats n => .decBegin :: List.replicate n .decF32
  | .recvBytesFloats m n => .decBegin :: (List.replicate m .decU8 ++ List.replicate n .decF32)
  | .feed bs => bs.map .push
  | .readFrame txLen => .txLen :: (List.range txLen.toNat).map fun i => .txRd (BitVec.ofNat 16 i)

/-! ### Assembly lines -/

/-- What an assembly line is: no command, a command, or refused by the assembler (30_encoding.md R81). -/
inductive AsmLine where
  | blank
  | command (i : Instr)
  | refused
  deriving DecidableEq, Repr

/-- A space or a tab. -/
def isBlank (c : Char) : Bool := c == ' ' || c == '\t'

/-- The words of a line, separated by blanks; `acc` is the word being read. -/
def splitWords : List Char → List Char → List (List Char)
  | acc, [] => if acc.isEmpty then [] else [acc]
  | acc, c :: cs =>
    if isBlank c then (if acc.isEmpty then splitWords [] cs else acc :: splitWords [] cs)
    else splitWords (acc ++ [c]) cs

/-- The value of a decimal digit. -/
def decDigit (c : Char) : Option Nat :=
  if '0' ≤ c ∧ c ≤ '9' then some (c.toNat - '0'.toNat) else none

/-- The value of a hexadecimal digit, in either case. -/
def hexDigit (c : Char) : Option Nat :=
  if '0' ≤ c ∧ c ≤ '9' then some (c.toNat - '0'.toNat)
  else if 'a' ≤ c ∧ c ≤ 'f' then some (c.toNat - 'a'.toNat + 10)
  else if 'A' ≤ c ∧ c ≤ 'F' then some (c.toNat - 'A'.toNat + 10)
  else none

/-- The number that digits in this base spell; `acc` is the value read so far. -/
def readDigits (base : Nat) (digit : Char → Option Nat) : Nat → List Char → Option Nat
  | acc, [] => some acc
  | acc, c :: cs =>
    match digit c with
    | none => none
    | some d => readDigits base digit (acc * base + d) cs

/-- A literal: hexadecimal `0x3C`, decimal `60`, or a signed decimal `-2` (30_encoding.md R81). -/
def readLiteral : List Char → Option Literal
  | [] => none
  | ['-'] => none
  | '-' :: cs => (readDigits 10 decDigit 0 cs).map fun n => ⟨true, false, n⟩
  | ['0', 'x'] => none
  | '0' :: 'x' :: cs => (readDigits 16 hexDigit 0 cs).map fun n => ⟨false, true, n⟩
  | cs => (readDigits 10 decDigit 0 cs).map fun n => ⟨false, false, n⟩

/-- The 16-bit two's-complement pattern of a literal (30_encoding.md R81). -/
def literalInt16 (l : Literal) : Half :=
  if l.negative then - BitVec.ofNat 16 l.magnitude else BitVec.ofNat 16 l.magnitude

/-- A form N mnemonic takes no operand. -/
def asmNone (i : Instr) : Option Literal → AsmLine
  | none => .command i
  | some _ => .refused

/-- A mnemonic with one operand: refused when the operand is missing or out of range, never truncated (30_encoding.md R81). -/
def asmOne (ok : Literal → Bool) (build : Literal → Instr) : Option Literal → AsmLine
  | none => .refused
  | some l => if ok l then .command (build l) else .refused

/-- A form B mnemonic. -/
def asmByte (f : Byte → Instr) : Option Literal → AsmLine := asmOne litByteOk fun l => f (BitVec.ofNat 8 l.magnitude)

/-- A form H mnemonic whose operand is an index. -/
def asmIndex (f : Half → Instr) : Option Literal → AsmLine := asmOne litIndexOk fun l => f (BitVec.ofNat 16 l.magnitude)

/-- The mnemonics (30_encoding.md R76), each with what it makes of its operand. -/
def asmMap : List (List Char × (Option Literal → AsmLine)) :=
  [ (['P', 'U', 'S', 'H'], asmByte .push),
    (['P', 'O', 'P'], asmNone .pop),
    (['P', 'E', 'E', 'K'], asmIndex .peek),
    (['S', 'I', 'Z', 'E'], asmNone .size),
    (['I', 'S', 'E', 'M', 'P', 'T', 'Y'], asmNone .isEmpty),
    (['C', 'L', 'E', 'A', 'R'], asmNone .clear),
    (['E', 'X', 'T', 'R', 'A', 'C', 'T'], asmNone .extract),
    (['C', 'R', 'C', '_', 'C', 'L', 'R'], asmNone .crcClr),
    (['C', 'R', 'C', '_', 'U', 'P', 'D'], asmByte .crcUpd),
    (['C', 'R', 'C', '_', 'R', 'D'], asmNone .crcRd),
    (['E', 'N', 'C', '_', 'B', 'E', 'G', 'I', 'N'], asmByte .encBegin),
    (['E', 'N', 'C', '_', 'U', '8'], asmByte .encU8),
    (['E', 'N', 'C', '_', 'I', '1', '6'], asmOne litInt16Ok fun l => .encI16 (literalInt16 l)),
    (['E', 'N', 'C', '_', 'F', '3', '2'], asmOne litFloatOk fun l => .encF32 (BitVec.ofNat 32 l.magnitude)),
    (['E', 'N', 'C', '_', 'E', 'N', 'D'], asmNone .encEnd),
    (['T', 'X', '_', 'L', 'E', 'N'], asmNone .txLen),
    (['T', 'X', '_', 'R', 'D'], asmIndex .txRd),
    (['R', 'X', '_', 'L', 'E', 'N'], asmNone .rxLen),
    (['R', 'X', '_', 'R', 'D'], asmIndex .rxRd),
    (['D', 'E', 'C', '_', 'B', 'E', 'G', 'I', 'N'], asmNone .decBegin),
    (['D', 'E', 'C', '_', 'U', '8'], asmNone .decU8),
    (['D', 'E', 'C', '_', 'I', '1', '6'], asmNone .decI16),
    (['D', 'E', 'C', '_', 'F', '3', '2'], asmNone .decF32),
    (['E', 'R', 'R', '_', 'R', 'D'], asmNone .errRd) ]

/-- What a mnemonic makes of its operand; an unknown mnemonic is refused. -/
def assembleWith (mnemonic : List Char) (operand : Option Literal) : AsmLine :=
  match asmMap.find? fun r => r.1 == mnemonic with
  | none => .refused
  | some r => r.2 operand

/-- One assembly line without its line end: a comment starts with `;`, then at most a mnemonic and an operand
(30_encoding.md R81; log 15). -/
def assembleLine (line : List Char) : AsmLine :=
  match splitWords [] (line.takeWhile fun c => c != ';') with
  | [] => .blank
  | [m] => assembleWith m none
  | [m, o] =>
    match readLiteral o with
    | none => .refused
    | some l => assembleWith m (some l)
  | _ => .refused

/-- The command word an assembly line assembles to, `OP << 32 | ARG` (30_encoding.md R81). -/
def assembleWord (line : List Char) : Option CommandWord :=
  match assembleLine line with
  | .command i => some (encode i)
  | .blank => none
  | .refused => none

end Sys2Proof.Machine
end

