-- ==== Sys2Proof/Safety.lean ====
section
/-! DEFINITION. The words in which claims about the core are stated: runs of commands, the invariant of every state that a run
reaches, what counts as a safe run, and which states the host cannot tell apart. -/

namespace Sys2Proof.Machine

/-! ### Runs -/

/-- The commands of a list, performed one after the other (20_memory.md R61), stopping at the first stop. -/
def runCommands : List Instr → State → Result
  | [], s => .next s
  | i :: is, s =>
    match exec i s with
    | .next t => runCommands is t
    | .fault r => .fault r
    | .refused r => .refused r

/-- The responses of `s` with one more (30_encoding.md R70). -/
def State.answered (s : State) (st : Status) (r : Word) : List Response := s.responses ++ [⟨st, r⟩]

/-! ### Frames and payloads -/

/-- The payload bytes of a field, low byte first (20_memory.md R52). -/
def fieldBytes : Field → List Byte
  | .u8 b => [b]
  | .i16 h => [h.extractLsb' 0 8, h.extractLsb' 8 8]
  | .f32 w => [w.extractLsb' 0 8, w.extractLsb' 8 8, w.extractLsb' 16 8, w.extractLsb' 24 8]

/-- What decoding a field returns: its pattern, zero-extended (45_decoder.md R198). -/
def fieldResult : Field → Word
  | .u8 b => b.setWidth 32
  | .i16 h => h.setWidth 32
  | .f32 w => w

/-- `P = [c] || bytes(f1) || ... || bytes(fn)` (44_encoder.md R177). -/
def payloadBytes (c : Byte) (fs : List Field) : List Byte := c :: fs.flatMap fieldBytes

/-- `START || [L] || P || [STOP] || [crc8(P)]` (44_encoder.md R177). -/
def frameBytes (par : Config.Params) (p : List Byte) : List Byte :=
  par.start :: BitVec.ofNat 8 p.length :: (p ++ [par.stop, crc8 p])

/-- RB is *waiting*: empty, or it starts with START and holds fewer than 2 or fewer than `4 + L` bytes (43_frame_parser.md R151). -/
def waiting (start : Byte) : List Byte → Bool
  | [] => true
  | [a] => a == start
  | a :: l :: tail => a == start && decide (tail.length + 2 < 4 + l.toNat)

/-! ### The invariant -/

/-- What holds at reset and is kept by every step: the ranges of 10_state.md section 1 and what its flags promise. -/
structure State.Inv (s : State) : Prop where
  /-- `COUNT <= CAP` (10_state.md R21). -/
  count_le_cap : s.count ≤ s.cap
  /-- RXPAY is in canonical form, its indices below 255 (10_state.md R27). -/
  rxPay_wf : s.rxPay.wf rxPaySize = true
  /-- TXBUF is in canonical form, its indices below 259 (10_state.md R31). -/
  txBuf_wf : s.txBuf.wf txBufSize = true
  /-- While RX_VALID = 1, `RXPAY[0..RXLEN)` holds a payload (10_state.md R25). -/
  rx_view : s.rxValid = true → ∃ p, s.rxPay.readBytes 0 s.rxLen.toNat = some p
  /-- The cursor law (45_decoder.md R196). -/
  decCur_le : s.rxValid = true → s.decCur.toNat ≤ s.rxLen.toNat
  /-- While ENC_ACTIVE = 1, ENC_LEN is 1..255, TXBUF[0] is START and the payload so far stands from TXBUF[2] on
  (10_state.md R30, 44_encoder.md R170). -/
  enc_view : s.encActive = true → 1 ≤ s.encLen.toNat ∧ s.txBuf.read 0 = some s.par.start ∧
    ∃ p, s.txBuf.readBytes 2 s.encLen.toNat = some p
  /-- While TX_READY = 1, `TXBUF[0..TXLEN)` holds a complete frame (10_state.md R32, 44_encoder.md R177). -/
  tx_view : s.txReady = true → ∃ p, p.length = s.encLen.toNat ∧ 1 ≤ p.length ∧ s.txLen.toNat = 4 + p.length ∧
    s.txBuf.readBytes 0 s.txLen.toNat = some (frameBytes s.par p)
  /-- A frame under construction is not readable (10_state.md R32). -/
  not_both : ¬ (s.encActive = true ∧ s.txReady = true)
  /-- TXLEN is 0 or 5..259 (10_state.md R33). -/
  txLen_range : s.txLen = 0 ∨ (5 ≤ s.txLen.toNat ∧ s.txLen.toNat ≤ 259)
  /-- Bits 7:6 of ERRFLAGS are 0 (10_state.md R34). -/
  errFlags_top : s.errFlags &&& 0xC0 = 0

/-! ### Contract errors of a run -/

/-- The OR of the bits of every contract error among the responses (46_status.md R210). -/
def errSummary (rs : List Response) : Byte :=
  rs.foldl (fun f r => match r.status with | .error e => f ||| errBit e | _ => f) 0

/-- ERRFLAGS records exactly the contract errors returned since reset (46_status.md R210). -/
def State.ErrFlagsRecord (s : State) : Prop := s.errFlags = errSummary s.responses

/-- A safe run has met no contract error: `ERRFLAGS = 0` (60_exceptions.md R224). -/
def State.NoContractError (s : State) : Prop := s.errFlagsRead = 0

/-! ### What the commands can tell apart -/

/-- The transmit side is the same (44_encoder.md R178). -/
structure SameTxSide (s t : State) : Prop where
  par : s.par = t.par
  encActive : s.encActive = t.encActive
  encLen : s.encLen = t.encLen
  txBuf : s.txBuf = t.txBuf
  txReady : s.txReady = t.txReady
  txLen : s.txLen = t.txLen

/-- The receive side is the same (44_encoder.md R178). -/
structure SameRxSide (s t : State) : Prop where
  par : s.par = t.par
  rb : s.rb = t.rb
  rxValid : s.rxValid = t.rxValid
  rxLen : s.rxLen = t.rxLen
  rxPay : s.rxPay = t.rxPay
  decCur : s.decCur = t.decCur

/-- The commands of 44_encoder.md. -/
def isEncoder : Instr → Bool
  | .encBegin _ | .encU8 _ | .encI16 _ | .encF32 _ | .encEnd | .txLen | .txRd _ => true
  | .push _ | .pop | .peek _ | .size | .isEmpty | .clear | .extract | .crcClr | .crcUpd _ | .crcRd | .rxLen | .rxRd _
  | .decBegin | .decU8 | .decI16 | .decF32 | .errRd => false

/-- The two states differ only in what no command can read: RXPAY, RXLEN and DEC_CUR while RX_VALID = 0, and RXPAY outside
`[0..RXLEN)` while RX_VALID = 1 (43_frame_parser.md R145, 10_state.md R27). -/
structure SameObservable (s t : State) : Prop where
  tx : SameTxSide s t
  rb : s.rb = t.rb
  crcAcc : s.crcAcc = t.crcAcc
  rxValid : s.rxValid = t.rxValid
  errFlags : s.errFlags = t.errFlags
  inputs : s.inputs = t.inputs
  responses : s.responses = t.responses
  rx : s.rxValid = true → s.rxLen = t.rxLen ∧ s.decCur = t.decCur ∧
    ∀ a, a < s.rxLen.toNat → s.rxPay.read a = t.rxPay.read a

/-- Two results that the host cannot tell apart. -/
def SameResult : Result → Result → Prop
  | .next s, .next t => SameObservable s t
  | .fault f, .fault g => f = g
  | .refused r, .refused q => r = q
  | _, _ => False

end Sys2Proof.Machine
end

