-- ==== Sys2Proof/Certificates/Slice0/Obligations.lean ====
section
/-! DEFINITION. The statements about the ucPack core, for the provers. `s.answered st r` is the list of responses of `s` with one more;
`s.responses` and `s.inputs` are the model's own fields (logs 2 and 3). -/

open Sys2Proof Sys2Proof.Machine

/-! ### Encoding -/

/-- Decode and encode agree, for every command and every operand (30_encoding.md R71, R73, R74, R76). -/
def Obligations.DecodeOfEncodeIsIdentity : Prop :=
  ∀ i : Instr, decode (encode i) = .ok i

/-- A word that decodes is the encoding of its command: no bit of it is dropped (30_encoding.md R71, R73, R76). -/
def Obligations.EncodeOfDecodeIsIdentity : Prop :=
  ∀ (w : CommandWord) (i : Instr), decode w = .ok i → encode i = w

/-- Which words decode to no command, in the opcode and argument ranges that 30_encoding.md R73, R76 and R78 write out; every
word is a well-formed command, an ERR_ILLEGAL word or an ERR_RESERVED word (R77). -/
def Obligations.DecodeRefusesExactlyTheseWords : Prop :=
  ∀ (w : CommandWord) (op arg : Nat), w.toNat = op * 2 ^ 32 + arg → arg < 2 ^ 32 →
    (decode w = .error .illegal ↔
      op ≤ 0x0F ∨ (0x16 ≤ op ∧ op ≤ 0x1F) ∨ (0x21 ≤ op ∧ op ≤ 0x2F) ∨ (0x33 ≤ op ∧ op ≤ 0x3F) ∨
      (0x47 ≤ op ∧ op ≤ 0x4F) ∨ (0x56 ≤ op ∧ op ≤ 0x5F) ∨ (0x61 ≤ op ∧ op ≤ 0xFF)) ∧
    (decode w = .error .reserved ↔
      (op ∈ [0x11, 0x13, 0x14, 0x15, 0x20, 0x30, 0x32, 0x44, 0x45, 0x50, 0x52, 0x53, 0x54, 0x55, 0x60] ∧ arg ≠ 0) ∨
      (op ∈ [0x10, 0x31, 0x40, 0x41] ∧ 2 ^ 8 ≤ arg) ∨ (op ∈ [0x12, 0x42, 0x46, 0x51] ∧ 2 ^ 16 ≤ arg)) ∧
    ((∃ i, decode w = .ok i) ∨ decode w = .error .illegal ∨ decode w = .error .reserved)

/-- One word of each family, written out from 30_encoding.md R71 and R76, decodes to its command. -/
def Obligations.SampleWordsDecode : Prop :=
  decode 0x100000003C = .ok (.push 0x3C) ∧ decode 0x120000FFFF = .ok (.peek 0xFFFF) ∧
  decode 0x2000000000 = .ok .extract ∧ decode 0x31000000F7 = .ok (.crcUpd 0xF7) ∧
  decode 0x420000FFFE = .ok (.encI16 0xFFFE) ∧ decode 0x437FC00001 = .ok (.encF32 0x7FC00001) ∧
  decode 0x51000000FE = .ok (.rxRd 254) ∧ decode 0x5500000000 = .ok .decF32 ∧ decode 0x6000000000 = .ok .errRd

/-! ### Steps -/

/-- A step runs the decoded command: the word is taken from the port and exec gives the rest (30_encoding.md R70, R77). -/
def Obligations.StepRunsTheDecodedCommand : Prop :=
  ∀ (s : State) (w : CommandWord) (rest : List Input) (i : Instr),
    s.inputs = .command w :: rest → decode w = .ok i → step s = exec i { s with inputs := rest }

/-- A word with an unassigned opcode ends in ERR_ILLEGAL, whatever ARG holds, with no other effect (30_encoding.md R78). -/
def Obligations.UnassignedOpcodeEndsInErrIllegal : Prop :=
  ∀ (s : State) (w : CommandWord) (rest : List Input) (op arg : Nat),
    s.inputs = .command w :: rest → w.toNat = op * 2 ^ 32 + arg → arg < 2 ^ 32 →
    (op ≤ 0x0F ∨ (0x16 ≤ op ∧ op ≤ 0x1F) ∨ (0x21 ≤ op ∧ op ≤ 0x2F) ∨ (0x33 ≤ op ∧ op ≤ 0x3F) ∨
      (0x47 ≤ op ∧ op ≤ 0x4F) ∨ (0x56 ≤ op ∧ op ≤ 0x5F) ∨ (0x61 ≤ op ∧ op ≤ 0xFF)) →
    step s = .next { s with
      inputs := rest, errFlags := s.errFlags ||| 0x01, responses := s.answered (.error .illegal) 0 }

/-- An assigned opcode with a non-zero reserved bit of ARG ends in ERR_RESERVED and does nothing else (30_encoding.md R73); this
check comes before every check of the command itself (60_exceptions.md R223). -/
def Obligations.ReservedBitEndsInErrReserved : Prop :=
  ∀ (s : State) (w : CommandWord) (rest : List Input) (op arg : Nat),
    s.inputs = .command w :: rest → w.toNat = op * 2 ^ 32 + arg → arg < 2 ^ 32 →
    ((op ∈ [0x11, 0x13, 0x14, 0x15, 0x20, 0x30, 0x32, 0x44, 0x45, 0x50, 0x52, 0x53, 0x54, 0x55, 0x60] ∧ arg ≠ 0) ∨
      (op ∈ [0x10, 0x31, 0x40, 0x41] ∧ 2 ^ 8 ≤ arg) ∨ (op ∈ [0x12, 0x42, 0x46, 0x51] ∧ 2 ^ 16 ≤ arg)) →
    step s = .next { s with
      inputs := rest, errFlags := s.errFlags ||| 0x02, responses := s.answered (.error .reserved) 0 }

/-- A run of steps over presented commands performs them in the order the host issues them (20_memory.md R61, 60_exceptions.md R242).
That the host's sequence stands in `inputs` is the model's choice: log 2. -/
def Obligations.RunPerformsThePresentedCommands : Prop :=
  ∀ (is : List Instr) (rest : List Input) (s : State),
    s.inputs = is.map (fun i => .command (encode i)) ++ rest →
    (Host.Core.run Sys2Proof.core is.length s : Result) = runCommands is { s with inputs := rest }

/-! ### Reset -/

/-- The register values that reset gives, for every instance (70_reset_and_hazards.md R250). -/
def Obligations.ResetRegisterValues : Prop :=
  ∀ p : Config.Params,
    (State.resetWith p).rb = [] ∧ (State.resetWith p).count = 0 ∧ (State.resetWith p).crcAcc = 0x00 ∧
    (State.resetWith p).rxValid = false ∧ (State.resetWith p).rxLen = 0 ∧ (State.resetWith p).decCur = 0 ∧
    (State.resetWith p).encActive = false ∧ (State.resetWith p).encLen = 0 ∧ (State.resetWith p).txReady = false ∧
    (State.resetWith p).txLen = 0 ∧ (State.resetWith p).errFlags = 0x00 ∧
    (∀ a, (State.resetWith p).rxPay.read a = none) ∧ (∀ a, (State.resetWith p).txBuf.read a = none) ∧
    State.reset = State.resetWith Config.params

/-- A reset applied by the platform puts the core in its construction state, for the same instance, and ERRFLAGS, which only reset
clears, loses no bit in any other step (70_reset_and_hazards.md R250, R251; 60_exceptions.md R224). The event itself, and that the responses are
counted from it, are the model's choice: logs 2, 3 and 12. -/
def Obligations.OnlyResetClearsErrFlags : Prop :=
  ∀ s : State,
    (∀ rest, s.inputs = .reset :: rest → step s = .next { State.resetWith s.par with inputs := rest }) ∧
    (∀ t, (∀ rest, s.inputs ≠ .reset :: rest) → step s = .next t → s.errFlags &&& t.errFlags = s.errFlags)

/-- No step changes START, STOP or CAP (70_reset_and_hazards.md R252). -/
def Obligations.ParametersNeverChange : Prop :=
  ∀ s t : State, step s = .next t → t.par = s.par

/-! ### Status and errors -/

/-- The STATUS byte of each outcome, `STATUS[7] = 1` exactly for contract errors (60_exceptions.md R220), the ERRFLAGS bit of each
contract error (10_state.md R34), and the place of both fields in the response word (30_encoding.md R72). -/
def Obligations.StatusCodesAndFlagBits : Prop :=
  statusCode .ok = 0x00 ∧ statusCode .empty = 0x01 ∧ statusCode .full = 0x02 ∧ statusCode .noFrame = 0x03 ∧
  statusCode .frame = 0x04 ∧ statusCode (.error .illegal) = 0x80 ∧ statusCode (.error .reserved) = 0x81 ∧
  statusCode (.error .range) = 0x82 ∧ statusCode (.error .seq) = 0x83 ∧ statusCode (.error .encOvf) = 0x84 ∧
  statusCode (.error .decShort) = 0x85 ∧
  errBit .illegal = 0x01 ∧ errBit .reserved = 0x02 ∧ errBit .range = 0x04 ∧ errBit .seq = 0x08 ∧ errBit .encOvf = 0x10 ∧
  errBit .decShort = 0x20 ∧
  (∀ st : Status, (statusCode st).getLsbD 7 = true ↔ ∃ e, st = .error e) ∧
  ∀ r : Response, (responseWord r).toNat = (statusCode r.status).toNat * 2 ^ 32 + r.result.toNat

/-- Every command that is performed gives exactly one response, whose RESULT is 0 when it is a contract error (30_encoding.md R70, R72). -/
def Obligations.EveryCommandGivesOneResponse : Prop :=
  ∀ (s t : State) (w : CommandWord) (rest : List Input),
    s.inputs = .command w :: rest → step s = .next t →
    t.inputs = rest ∧ ∃ st r, t.responses = s.answered st r ∧ ((∃ e, st = .error e) → r = 0)

/-- A command that ends in a contract error has no effect except its response and its ERRFLAGS bit (60_exceptions.md R224). -/
def Obligations.ContractErrorHasNoOtherEffect : Prop :=
  ∀ (s t : State) (w : CommandWord) (rest : List Input) (e : ContractError) (r : Word),
    s.inputs = .command w :: rest → step s = .next t → t.responses = s.answered (.error e) r →
    r = 0 ∧ t = { s with inputs := rest, errFlags := s.errFlags ||| errBit e, responses := s.answered (.error e) 0 }

/-- An outcome that is no contract error, EMPTY, FULL and NOFRAME among them, sets no ERRFLAGS bit (60_exceptions.md R222). -/
def Obligations.OtherOutcomesSetNoErrFlag : Prop :=
  ∀ (s t : State) (w : CommandWord) (rest : List Input) (st : Status) (r : Word),
    s.inputs = .command w :: rest → step s = .next t → t.responses = s.answered st r → (∀ e, st ≠ .error e) →
    t.errFlags = s.errFlags

/-- Each contract error of a well-formed command has exactly the causes that 60_exceptions.md R221 lists, and of several the first in
the order of R223 is reported. -/
def Obligations.ContractErrorsHaveTheirListedCauses : Prop :=
  ∀ (i : Instr) (s t : State) (st : Status) (r : Word), exec i s = .next t → t.responses = s.answered st r →
    st ≠ .error .illegal ∧ st ≠ .error .reserved ∧
    (st = .error .seq ↔
      match i with
      | .encU8 _ | .encI16 _ | .encF32 _ | .encEnd => s.encActive = false
      | .txLen | .txRd _ => s.txReady = false
      | .rxLen | .rxRd _ | .decBegin => s.rxValid = false
      | .decU8 | .decI16 | .decF32 => s.rxValid = false ∨ s.decCur = 0
      | _ => False) ∧
    (st = .error .range ↔
      match i with
      | .peek k => s.count ≤ k.toNat
      | .txRd k => s.txReady = true ∧ s.txLen.toNat ≤ k.toNat
      | .rxRd k => s.rxValid = true ∧ s.rxLen.toNat ≤ k.toNat
      | _ => False) ∧
    (st = .error .encOvf ↔
      match i with
      | .encU8 _ => s.encActive = true ∧ 255 < s.encLen.toNat + 1
      | .encI16 _ => s.encActive = true ∧ 255 < s.encLen.toNat + 2
      | .encF32 _ => s.encActive = true ∧ 255 < s.encLen.toNat + 4
      | _ => False) ∧
    (st = .error .decShort ↔
      match i with
      | .decBegin => s.rxValid = true ∧ s.rxLen = 0
      | .decU8 => s.rxValid = true ∧ s.decCur ≠ 0 ∧ s.rxLen.toNat < s.decCur.toNat + 1
      | .decI16 => s.rxValid = true ∧ s.decCur ≠ 0 ∧ s.rxLen.toNat < s.decCur.toNat + 2
      | .decF32 => s.rxValid = true ∧ s.decCur ≠ 0 ∧ s.rxLen.toNat < s.decCur.toNat + 4
      | _ => False)

/-- ERR_RD returns ERRFLAGS with bits 7:6 as 0 and does not clear it (46_status.md R210); where ERRFLAGS records the contract errors
since reset, as it does at reset and after every step (`ErrFlagsRecordEveryContractError`), the result is the OR of their bits. That the
responses since reset stand in `responses` is the model's choice: logs 3 and 12. -/
def Obligations.ErrRdReturnsTheStickyFlags : Prop :=
  ∀ s : State,
    decode 0x6000000000 = .ok .errRd ∧ (∀ a : Word, a ≠ 0 → decode (0x6000000000#40 ||| a.setWidth 40) = .error .reserved) ∧
    exec .errRd s = .next { s with responses := s.answered .ok ((s.errFlags &&& 0x3F).setWidth 32) } ∧
    (s.ErrFlagsRecord →
      exec .errRd s = .next { s with responses := s.answered .ok ((errSummary s.responses).setWidth 32) })

/-- ERRFLAGS is at every point the OR of `1 << (s - 0x80)` over the contract-error statuses returned since reset (46_status.md R210). That the
responses since reset stand in `responses` is the model's choice: logs 3 and 12. -/
def Obligations.ErrFlagsRecordEveryContractError : Prop :=
  (∀ p, (State.resetWith p).ErrFlagsRecord) ∧
  ∀ s t : State, s.ErrFlagsRecord → step s = .next t → t.ErrFlagsRecord

/-! ### Ring buffer -/

/-- PUSH (41_ring_buffer.md R101, R103). -/
def Obligations.PushAppendsOrRejects : Prop :=
  ∀ (s : State) (b : Byte),
    decode (0x1000000000#40 ||| b.setWidth 40) = .ok (.push b) ∧
    (s.count = s.cap → exec (.push b) s = .next { s with responses := s.answered .full 0 }) ∧
    (s.count < s.cap → exec (.push b) s = .next { s with rb := s.rb ++ [b], responses := s.answered .ok 0 })

/-- POP (41_ring_buffer.md R102). -/
def Obligations.PopRemovesTheFrontByte : Prop :=
  ∀ s : State,
    decode 0x1100000000 = .ok .pop ∧
    (s.count = 0 → exec .pop s = .next { s with responses := s.answered .empty 0 }) ∧
    (∀ v tail, s.rb = v :: tail →
      exec .pop s = .next { s with rb := tail, responses := s.answered .ok (v.setWidth 32) })

/-- PEEK (41_ring_buffer.md R104). -/
def Obligations.PeekReadsALogicalOffset : Prop :=
  ∀ (s : State) (i : Half),
    decode (0x1200000000#40 ||| i.setWidth 40) = .ok (.peek i) ∧
    (s.count ≤ i.toNat →
      exec (.peek i) s = .next { s with
        errFlags := s.errFlags ||| 0x04, responses := s.answered (.error .range) 0 }) ∧
    (∀ front b tail, s.rb = front ++ b :: tail → front.length = i.toNat →
      exec (.peek i) s = .next { s with responses := s.answered .ok (b.setWidth 32) })

/-- SIZE, ISEMPTY and CLEAR (41_ring_buffer.md R105, R106, R107). -/
def Obligations.SizeIsEmptyAndClear : Prop :=
  ∀ s : State,
    decode 0x1300000000 = .ok .size ∧ decode 0x1400000000 = .ok .isEmpty ∧ decode 0x1500000000 = .ok .clear ∧
    exec .size s = .next { s with responses := s.answered .ok (BitVec.ofNat 32 s.count) } ∧
    exec .isEmpty s = .next { s with responses := s.answered .ok (if s.count = 0 then 1 else 0) } ∧
    exec .clear s = .next { s with rb := [], responses := s.answered .ok 0 }

/-- Bytes enter RB in the order PUSH commands deliver them (20_memory.md R53) and POP returns them in that order (41_ring_buffer.md R100). -/
def Obligations.StreamOrderIsFirstInFirstOut : Prop :=
  ∀ (s : State) (bs : List Byte), s.count + bs.length ≤ s.cap →
    runCommands (bs.map .push) s =
      .next { s with rb := s.rb ++ bs, responses := s.responses ++ bs.map (fun _ => ⟨.ok, 0⟩) } ∧
    (s.rb = [] → runCommands (bs.map .push ++ bs.map (fun _ => .pop)) s =
      .next { s with
        responses := s.responses ++ bs.map (fun _ => ⟨.ok, 0⟩) ++ bs.map (fun b => ⟨.ok, b.setWidth 32⟩) })

/-! ### CRC8 -/

/-- CRC_CLR and CRC_RD (42_crc8.md R123, R125). -/
def Obligations.CrcClearAndRead : Prop :=
  ∀ s : State,
    decode 0x3000000000 = .ok .crcClr ∧ decode 0x3200000000 = .ok .crcRd ∧
    exec .crcClr s = .next { s with crcAcc := 0x00, responses := s.answered .ok 0 } ∧
    exec .crcRd s = .next { s with responses := s.answered .ok (s.crcAcc.setWidth 32) }

/-- CRC_UPD folds its byte into CRCACC, and after CRC_CLR and CRC_UPD of every byte of a sequence CRCACC is its crc8, whatever the
length (42_crc8.md R124). -/
def Obligations.CrcAccumulatesTheFunction : Prop :=
  ∀ (s : State) (b : Byte) (bs : List Byte),
    decode (0x3100000000#40 ||| b.setWidth 40) = .ok (.crcUpd b) ∧
    exec (.crcUpd b) s = .next { s with crcAcc := crc8Step s.crcAcc b, responses := s.answered .ok 0 } ∧
    ∃ t, runCommands (.crcClr :: bs.map .crcUpd) s = .next t ∧ t.crcAcc = crc8 bs

/-- crc8_step in its equivalent form: `x <- c ^ b`, then 8 times `x <- (x >> 1) ^ (if x & 1 = 1 then 0x8C else 0)`
(42_crc8.md R121). -/
def Obligations.CrcStepEquivalentForm : Prop :=
  ∀ c b : Byte,
    crc8Step c b = (fun x : Byte => (x >>> 1) ^^^ (if x &&& 1 = 1 then 0x8C else 0))^[8] (c ^^^ b)

/-- crc8 is linear over XOR, and 0 on an all-zero sequence (42_crc8.md R122 (a), (c)). -/
def Obligations.CrcIsLinear : Prop :=
  (∀ n, crc8 (List.replicate n 0x00) = 0x00) ∧
  ∀ xs ys : List Byte, xs.length = ys.length →
    crc8 (List.zipWith (fun x y => x ^^^ y) xs ys) = crc8 xs ^^^ crc8 ys

/-- Any error confined to one byte of a sequence changes its crc8 (42_crc8.md R122 (d)). -/
def Obligations.CrcDetectsAnErrorInOneByte : Prop :=
  ∀ (front tail : List Byte) (a b : Byte), a ≠ b → crc8 (front ++ a :: tail) ≠ crc8 (front ++ b :: tail)

/-! ### Frame parser -/

/-- EXTRACT, step by step (43_frame_parser.md R140): the noise before the first START is discarded; a candidate that is not all there
waits; a wrong STOP or a wrong CRC8 costs the START byte only; a valid frame is removed whole and becomes readable. That RXPAY and RXLEN are
written before the CRC8 check is R140's own text, which R145 lets a model leave out (log 5). -/
def Obligations.ExtractFollowsTheNineSteps : Prop :=
  ∀ (s : State) (noise rest : List Byte),
    decode 0x2000000000 = .ok .extract ∧
    (s.rb = noise ++ rest → (∀ b ∈ noise, b ≠ s.par.start) →
      (waiting s.par.start rest = true →
        exec .extract s = .next { s with rxValid := false, rb := rest, responses := s.answered .noFrame 0 }) ∧
      ∀ (l : Byte) (p : List Byte) (x c : Byte) (tail : List Byte),
        rest = s.par.start :: l :: (p ++ x :: c :: tail) → p.length = l.toNat →
        (x ≠ s.par.stop →
          exec .extract s = .next { s with
            rxValid := false, rb := rest.drop 1, responses := s.answered .noFrame 0 }) ∧
        (x = s.par.stop → c ≠ crc8 p →
          ∃ t, exec .extract s = .next t ∧
            (∀ a, t.rxPay.read a = if a < l.toNat then p[a]? else s.rxPay.read a) ∧
            t = { s with
              rxValid := false, rb := rest.drop 1, rxPay := t.rxPay, rxLen := l, responses := s.answered .noFrame 0 }) ∧
        (x = s.par.stop → c = crc8 p →
          ∃ t, exec .extract s = .next t ∧
            (∀ a, t.rxPay.read a = if a < l.toNat then p[a]? else s.rxPay.read a) ∧
            t = { s with
              rxValid := true, rb := tail, rxPay := t.rxPay, rxLen := l, decCur := 0,
              responses := s.answered .frame (l.setWidth 32) }))

/-- EXTRACT returns FRAME exactly when, after the noise, `RB[0] = START`, `COUNT >= 4 + L` with `L = RB[1]`, `RB[2 + L] = STOP` and
`crc8(RB[2 .. 2+L)) = RB[3 + L]` (43_frame_parser.md R150); otherwise it returns NOFRAME. -/
def Obligations.FrameAcceptedExactlyWhenComplete : Prop :=
  ∀ s : State, ∃ t, exec .extract s = .next t ∧
    ((∃ l : Byte, t.responses = s.answered .frame (l.setWidth 32)) ∨ t.responses = s.answered .noFrame 0) ∧
    ∀ rb : List Byte, rb = s.rb.dropWhile (fun b => b != s.par.start) →
      ∀ l : Byte, (t.responses = s.answered .frame (l.setWidth 32) ↔
        rb[0]? = some s.par.start ∧ rb[1]? = some l ∧ 4 + l.toNat ≤ rb.length ∧ rb[2 + l.toNat]? = some s.par.stop ∧
        rb[3 + l.toNat]? = some (crc8 ((rb.drop 2).take l.toNat)))

/-- The progress law of one EXTRACT, `k` being the length of the noise: FRAME removes the noise and `4 + L` bytes; NOFRAME removes the
noise and one START byte, or the noise only and then RB is waiting (43_frame_parser.md R151). -/
def Obligations.ExtractProgressLaw : Prop :=
  ∀ s : State, ∃ t k, exec .extract s = .next t ∧ k ≤ s.count ∧ (∀ b ∈ s.rb.take k, b ≠ s.par.start) ∧
    ((s.rb[k]? = some s.par.start ∧ ∃ l : Byte, t.responses = s.answered .frame (l.setWidth 32) ∧
        k + 4 + l.toNat ≤ s.count ∧ t.rb = s.rb.drop (k + 4 + l.toNat)) ∨
     (s.rb[k]? = some s.par.start ∧ t.responses = s.answered .noFrame 0 ∧ t.rb = s.rb.drop (k + 1)) ∨
     (t.responses = s.answered .noFrame 0 ∧ t.rb = s.rb.drop k ∧ waiting s.par.start t.rb = true))

/-- With no PUSH in between, COUNT EXTRACT commands leave RB waiting, and any number of further EXTRACT commands all answer NOFRAME and
change nothing but RX_VALID (43_frame_parser.md R151). -/
def Obligations.DrainLeavesRbWaiting : Prop :=
  ∀ s : State, ∃ t, runCommands (List.replicate s.count .extract) s = .next t ∧
    waiting s.par.start t.rb = true ∧
    ∀ n : Nat, runCommands (List.replicate n .extract) t = .next { t with
      rxValid := if n = 0 then t.rxValid else false
      responses := t.responses ++ List.replicate n ⟨.noFrame, 0⟩ }

/-- A frame with `L = 0` is extracted: FRAME, 0, four bytes removed, RXLEN = 0; DEC_BEGIN on it ends in ERR_DEC_SHORT
(43_frame_parser.md R148). -/
def Obligations.EmptyPayloadFrameIsValid : Prop :=
  ∀ (s : State) (tail : List Byte), s.rb = s.par.start :: 0x00 :: s.par.stop :: 0x00 :: tail →
    exec .extract s = .next { s with
      rxValid := true, rb := tail, rxLen := 0, decCur := 0, responses := s.answered .frame 0 } ∧
    ∀ t, exec .extract s = .next t →
      exec .decBegin t = .next { t with
        errFlags := t.errFlags ||| 0x20, responses := t.answered (.error .decShort) 0 }

/-- The received payload is readable after an EXTRACT exactly when that EXTRACT returned FRAME, and no other command ends or opens the
view (43_frame_parser.md R147, 10_state.md R25). -/
def Obligations.ReceiveViewLifetime : Prop :=
  ∀ s t : State,
    (exec .extract s = .next t →
      (t.rxValid = true ↔ t.responses = s.answered .frame (t.rxLen.setWidth 32))) ∧
    ∀ i : Instr, i ≠ .extract → exec i s = .next t → t.rxValid = s.rxValid

/-- Capacity: where the candidate at the front needs more than CAP bytes, EXTRACT returns NOFRAME and discards nothing, PUSH returns FULL
once the buffer is full, and every command but POP and CLEAR leaves it so; with `CAP >= 259` a full buffer always loses a byte to EXTRACT
and takes the next PUSH (70_reset_and_hazards.md R262). -/
def Obligations.CapacityLivelockOnlyBelow259 : Prop :=
  ∀ s : State, s.count ≤ s.cap →
    (∀ (l : Byte) (tail : List Byte), s.rb = s.par.start :: l :: tail → s.cap < 4 + l.toNat →
      exec .extract s = .next { s with rxValid := false, responses := s.answered .noFrame 0 } ∧
      (s.count = s.cap → ∀ b, exec (.push b) s = .next { s with responses := s.answered .full 0 }) ∧
      ∀ i t, i ≠ .pop → i ≠ .clear → exec i s = .next t →
        t.par = s.par ∧ t.count ≤ t.cap ∧ ∃ tail', t.rb = s.par.start :: l :: tail') ∧
    (259 ≤ s.cap → s.count = s.cap →
      ∃ t, exec .extract s = .next t ∧ t.count < s.count ∧
        ∀ b, exec (.push b) t = .next { t with rb := t.rb ++ [b], responses := t.answered .ok 0 })

/-- What EXTRACT leaves in RXPAY, RXLEN and DEC_CUR while RX_VALID = 0, and in RXPAY outside the view, no command can tell
(43_frame_parser.md R145): two states that differ only there give the same responses at every step and stay so. -/
def Obligations.UnreadablePayloadIsUnobservable : Prop :=
  ∀ s t : State, SameObservable s t → SameResult (step s) (step t)

/-! ### Encoder -/

/-- ENC_BEGIN (44_encoder.md R170). -/
def Obligations.EncBeginStartsAFrame : Prop :=
  ∀ (s : State) (b : Byte),
    decode (0x4000000000#40 ||| b.setWidth 40) = .ok (.encBegin b) ∧
    ∃ t, exec (.encBegin b) s = .next t ∧
      (∀ a, t.txBuf.read a = if a = 0 then some s.par.start else if a = 2 then some b else s.txBuf.read a) ∧
      t = { s with
        txReady := false, txBuf := t.txBuf, encLen := 1, encActive := true, responses := s.answered .ok 0 }

/-- ENC_U8 (44_encoder.md R171). -/
def Obligations.EncU8AppendsAByteField : Prop :=
  ∀ (s : State) (b : Byte),
    decode (0x4100000000#40 ||| b.setWidth 40) = .ok (.encU8 b) ∧
    (s.encActive = false → exec (.encU8 b) s = .next { s with
      errFlags := s.errFlags ||| 0x08, responses := s.answered (.error .seq) 0 }) ∧
    (s.encActive = true → 255 < s.encLen.toNat + 1 → exec (.encU8 b) s = .next { s with
      errFlags := s.errFlags ||| 0x10, responses := s.answered (.error .encOvf) 0 }) ∧
    (s.encActive = true → s.encLen.toNat + 1 ≤ 255 →
      ∃ t, exec (.encU8 b) s = .next t ∧
        (∀ a, t.txBuf.read a = if a = s.fieldIndex then some b else s.txBuf.read a) ∧
        t = { s with txBuf := t.txBuf, encLen := s.encLen + 1, responses := s.answered .ok 0 })

/-- ENC_I16: the low byte at `2 + ENC_LEN`, the high byte after it (44_encoder.md R172). -/
def Obligations.EncI16AppendsTwoBytesLowFirst : Prop :=
  ∀ (s : State) (h : Half),
    decode (0x4200000000#40 ||| h.setWidth 40) = .ok (.encI16 h) ∧
    (s.encActive = false → exec (.encI16 h) s = .next { s with
      errFlags := s.errFlags ||| 0x08, responses := s.answered (.error .seq) 0 }) ∧
    (s.encActive = true → 254 ≤ s.encLen.toNat → exec (.encI16 h) s = .next { s with
      errFlags := s.errFlags ||| 0x10, responses := s.answered (.error .encOvf) 0 }) ∧
    (s.encActive = true → s.encLen.toNat + 2 ≤ 255 →
      ∃ t, exec (.encI16 h) s = .next t ∧
        (∀ a, t.txBuf.read a =
          if a = s.fieldIndex then some (h.extractLsb' 0 8)
          else if a = s.fieldIndex + 1 then some (h.extractLsb' 8 8) else s.txBuf.read a) ∧
        t = { s with txBuf := t.txBuf, encLen := s.encLen + 2, responses := s.answered .ok 0 })

/-- ENC_F32: the four bytes of the pattern from `2 + ENC_LEN` on, `w[7:0]` first (44_encoder.md R173). -/
def Obligations.EncF32AppendsFourBytesLowFirst : Prop :=
  ∀ (s : State) (w : Word),
    decode (0x4300000000#40 ||| w.setWidth 40) = .ok (.encF32 w) ∧
    (s.encActive = false → exec (.encF32 w) s = .next { s with
      errFlags := s.errFlags ||| 0x08, responses := s.answered (.error .seq) 0 }) ∧
    (s.encActive = true → 252 ≤ s.encLen.toNat → exec (.encF32 w) s = .next { s with
      errFlags := s.errFlags ||| 0x10, responses := s.answered (.error .encOvf) 0 }) ∧
    (s.encActive = true → s.encLen.toNat + 4 ≤ 255 →
      ∃ t, exec (.encF32 w) s = .next t ∧
        (∀ a, t.txBuf.read a =
          if a = s.fieldIndex then some (w.extractLsb' 0 8)
          else if a = s.fieldIndex + 1 then some (w.extractLsb' 8 8)
          else if a = s.fieldIndex + 2 then some (w.extractLsb' 16 8)
          else if a = s.fieldIndex + 3 then some (w.extractLsb' 24 8) else s.txBuf.read a) ∧
        t = { s with txBuf := t.txBuf, encLen := s.encLen + 4, responses := s.answered .ok 0 })

/-- ENC_END: with `L = ENC_LEN` in 1..255 and the payload `p` in `TXBUF[2 .. 2+L)`, it writes LEN, STOP and the CRC8 of the payload
(44_encoder.md R174). -/
def Obligations.EncEndCompletesTheFrame : Prop :=
  ∀ s : State,
    decode 0x4400000000 = .ok .encEnd ∧
    (s.encActive = false → exec .encEnd s = .next { s with
      errFlags := s.errFlags ||| 0x08, responses := s.answered (.error .seq) 0 }) ∧
    (∀ p, s.encActive = true → 1 ≤ s.encLen.toNat → s.txBuf.readBytes 2 s.encLen.toNat = some p →
      ∃ t, exec .encEnd s = .next t ∧
        (∀ a, t.txBuf.read a =
          if a = 1 then some s.encLen
          else if a = 2 + s.encLen.toNat then some s.par.stop
          else if a = 3 + s.encLen.toNat then some (crc8 p) else s.txBuf.read a) ∧
        t = { s with
          txBuf := t.txBuf, txLen := BitVec.ofNat 16 (4 + s.encLen.toNat), txReady := true, encActive := false,
          responses := s.answered .ok (BitVec.ofNat 32 (4 + s.encLen.toNat)) })

/-- TX_LEN and TX_RD: ERR_SEQ first, then ERR_RANGE (44_encoder.md R175, R176). -/
def Obligations.TxLenAndTxRdReadTheFrame : Prop :=
  ∀ (s : State) (i : Half),
    decode 0x4500000000 = .ok .txLen ∧ decode (0x4600000000#40 ||| i.setWidth 40) = .ok (.txRd i) ∧
    (s.txReady = false → ∀ j ∈ [Instr.txLen, Instr.txRd i], exec j s = .next { s with
      errFlags := s.errFlags ||| 0x08, responses := s.answered (.error .seq) 0 }) ∧
    (s.txReady = true → exec .txLen s = .next { s with responses := s.answered .ok (s.txLen.setWidth 32) }) ∧
    (s.txReady = true → s.txLen.toNat ≤ i.toNat → exec (.txRd i) s = .next { s with
      errFlags := s.errFlags ||| 0x04, responses := s.answered (.error .range) 0 }) ∧
    (∀ b, s.txReady = true → i.toNat < s.txLen.toNat → s.txBuf.read i.toNat = some b →
      exec (.txRd i) s = .next { s with responses := s.answered .ok (b.setWidth 32) })

/-- ENC_BEGIN, any fields in any order that fit, ENC_END: every response is OK and `TXBUF[0..TXLEN)` is exactly
`START || [L] || P || [STOP] || [crc8(P)]` (44_encoder.md R177). -/
def Obligations.StreamedEncodeBuildsTheFrame : Prop :=
  ∀ (s : State) (c : Byte) (fs : List Field), (payloadBytes c fs).length ≤ 255 →
    ∃ t, runCommands (sendCommands c fs) s = .next t ∧ t.txReady = true ∧
      t.txLen.toNat = 4 + (payloadBytes c fs).length ∧
      t.txBuf.readBytes 0 t.txLen.toNat = some (frameBytes s.par (payloadBytes c fs)) ∧
      t.responses = s.responses ++ (⟨.ok, 0⟩ :: (fs.map fun _ => ⟨.ok, 0⟩)) ++
        [⟨.ok, BitVec.ofNat 32 (4 + (payloadBytes c fs).length)⟩] ∧
      SameRxSide s t ∧ t.crcAcc = s.crcAcc ∧ t.errFlags = s.errFlags

/-- The four SEND pseudo-commands end every command in OK exactly within the bounds of 30_encoding.md R82; beyond them one of their field
commands ends in ERR_ENC_OVF. -/
def Obligations.SendPseudoCommandsFitExactlyWithinTheirBounds : Prop :=
  ∀ (s : State) (q : Pseudo),
    (match q with
      | .sendBytes _ _ | .sendInts _ _ | .sendFloats _ _ | .sendBytesFloats _ _ _ => True
      | _ => False) →
    ∃ t rs, runCommands (expandPseudo q) s = .next t ∧ t.responses = s.responses ++ rs ∧
      (q.wellFormed = true → ∀ r ∈ rs, r.status = .ok) ∧
      (q.wellFormed = false → ∃ r ∈ rs, r.status = .error .encOvf)

/-- READ_FRAME returns TXLEN and then the frame's bytes in index order, and changes nothing (30_encoding.md R82, 20_memory.md R53). -/
def Obligations.ReadFrameReturnsTheFrameInOrder : Prop :=
  ∀ (s : State) (frame : List Byte), s.txReady = true → s.txBuf.readBytes 0 s.txLen.toNat = some frame →
    runCommands (expandPseudo (.readFrame s.txLen)) s = .next { s with
      responses := s.responses ++ ⟨.ok, s.txLen.setWidth 32⟩ :: frame.map (fun b => ⟨.ok, b.setWidth 32⟩) }

/-- The encoder and the receive side are independent (44_encoder.md R178), both ways: a command of one writes nothing of the other; what an
encoder command does to the transmit side and answers depends on the transmit side only; and what any other command does to the rest of
the core and answers does not depend on the transmit side. -/
def Obligations.EncoderAndReceiveSideAreIndependent : Prop :=
  (∀ (i : Instr) (s t : State), isEncoder i = false → exec i s = .next t → SameTxSide s t) ∧
  (∀ (i : Instr) (s t : State), isEncoder i = true → exec i s = .next t → SameRxSide s t ∧ t.crcAcc = s.crcAcc) ∧
  (∀ (i : Instr) (s s' t t' : State) (st st' : Status) (r r' : Word), isEncoder i = true → SameTxSide s s' →
    exec i s = .next t → exec i s' = .next t' → t.responses = s.answered st r → t'.responses = s'.answered st' r' →
    SameTxSide t t' ∧ st = st' ∧ r = r') ∧
  (∀ (i : Instr) (s s' t t' : State) (st st' : Status) (r r' : Word), isEncoder i = false → SameRxSide s s' →
    s.crcAcc = s'.crcAcc → s.errFlags = s'.errFlags →
    exec i s = .next t → exec i s' = .next t' → t.responses = s.answered st r → t'.responses = s'.answered st' r' →
    SameRxSide t t' ∧ t.crcAcc = t'.crcAcc ∧ t.errFlags = t'.errFlags ∧ st = st' ∧ r = r')

/-! ### Decoder -/

/-- RX_LEN and RX_RD: ERR_SEQ first, then ERR_RANGE (45_decoder.md R190, R191). -/
def Obligations.RxLenAndRxRdReadThePayload : Prop :=
  ∀ (s : State) (i : Half),
    decode 0x5000000000 = .ok .rxLen ∧ decode (0x5100000000#40 ||| i.setWidth 40) = .ok (.rxRd i) ∧
    (s.rxValid = false → ∀ j ∈ [Instr.rxLen, Instr.rxRd i], exec j s = .next { s with
      errFlags := s.errFlags ||| 0x08, responses := s.answered (.error .seq) 0 }) ∧
    (s.rxValid = true → exec .rxLen s = .next { s with responses := s.answered .ok (s.rxLen.setWidth 32) }) ∧
    (s.rxValid = true → s.rxLen.toNat ≤ i.toNat → exec (.rxRd i) s = .next { s with
      errFlags := s.errFlags ||| 0x04, responses := s.answered (.error .range) 0 }) ∧
    (∀ b, s.rxValid = true → i.toNat < s.rxLen.toNat → s.rxPay.read i.toNat = some b →
      exec (.rxRd i) s = .next { s with responses := s.answered .ok (b.setWidth 32) })

/-- DEC_BEGIN (45_decoder.md R192). -/
def Obligations.DecBeginReturnsTheCode : Prop :=
  ∀ s : State,
    decode 0x5200000000 = .ok .decBegin ∧
    (s.rxValid = false → exec .decBegin s = .next { s with
      errFlags := s.errFlags ||| 0x08, responses := s.answered (.error .seq) 0 }) ∧
    (s.rxValid = true → s.rxLen = 0 → exec .decBegin s = .next { s with
      errFlags := s.errFlags ||| 0x20, responses := s.answered (.error .decShort) 0 }) ∧
    (∀ b, s.rxValid = true → 1 ≤ s.rxLen.toNat → s.rxPay.read 0 = some b →
      exec .decBegin s = .next { s with decCur := 1, responses := s.answered .ok (b.setWidth 32) })

/-- DEC_U8, DEC_I16 and DEC_F32 (45_decoder.md R193, R194, R195): ERR_SEQ first, then ERR_DEC_SHORT, both leaving DEC_CUR unchanged; else,
at any cursor, aligned or not, the bytes at the cursor, low byte first, zero-extended, and the cursor moves past them (20_memory.md R52,
R56). -/
def Obligations.DecodeFieldsReadLowByteFirst : Prop :=
  ∀ (s : State) (b0 b1 b2 b3 : Byte),
    decode 0x5300000000 = .ok .decU8 ∧ decode 0x5400000000 = .ok .decI16 ∧ decode 0x5500000000 = .ok .decF32 ∧
    (∀ (i : Instr) (n : Nat), (i = .decU8 ∧ n = 1) ∨ (i = .decI16 ∧ n = 2) ∨ (i = .decF32 ∧ n = 4) →
      (s.rxValid = false ∨ s.decCur = 0 → exec i s = .next { s with
        errFlags := s.errFlags ||| 0x08, responses := s.answered (.error .seq) 0 }) ∧
      (s.rxValid = true → s.decCur ≠ 0 → s.rxLen.toNat < s.decCur.toNat + n → exec i s = .next { s with
        errFlags := s.errFlags ||| 0x20, responses := s.answered (.error .decShort) 0 })) ∧
    (s.rxValid = true → s.decCur ≠ 0 → s.rxPay.read s.decCur.toNat = some b0 →
      (s.decCur.toNat + 1 ≤ s.rxLen.toNat →
        exec .decU8 s = .next { s with decCur := s.decCur + 1, responses := s.answered .ok (b0.setWidth 32) }) ∧
      (s.decCur.toNat + 2 ≤ s.rxLen.toNat → s.rxPay.read (s.decCur.toNat + 1) = some b1 →
        exec .decI16 s = .next { s with
          decCur := s.decCur + 2, responses := s.answered .ok ((b1 ++ b0).setWidth 32) }) ∧
      (s.decCur.toNat + 4 ≤ s.rxLen.toNat → s.rxPay.read (s.decCur.toNat + 1) = some b1 →
        s.rxPay.read (s.decCur.toNat + 2) = some b2 → s.rxPay.read (s.decCur.toNat + 3) = some b3 →
        exec .decF32 s = .next { s with
          decCur := s.decCur + 4, responses := s.answered .ok (b3 ++ (b2 ++ (b1 ++ b0)) : BitVec 32) }))

/-- The cursor law: DEC_CUR changes only by EXTRACT (to 0, on FRAME), DEC_BEGIN (to 1) and a successful field command (by 1, 2, 4), and
it stays within the payload (45_decoder.md R196). -/
def Obligations.CursorLaw : Prop :=
  ∀ (i : Instr) (s t : State) (st : Status) (r : Word), exec i s = .next t → t.responses = s.answered st r →
    (t.decCur ≠ s.decCur →
      (i = .extract ∧ st = .frame ∧ t.decCur = 0) ∨ (i = .decBegin ∧ st = .ok ∧ t.decCur = 1) ∨
      (i = .decU8 ∧ st = .ok ∧ t.decCur.toNat = s.decCur.toNat + 1) ∨
      (i = .decI16 ∧ st = .ok ∧ t.decCur.toNat = s.decCur.toNat + 2) ∨
      (i = .decF32 ∧ st = .ok ∧ t.decCur.toNat = s.decCur.toNat + 4)) ∧
    ((s.rxValid = true → s.decCur.toNat ≤ s.rxLen.toNat) → t.rxValid = true → t.decCur.toNat ≤ t.rxLen.toNat)

/-- Decoding reverses encoding (45_decoder.md R198): on a payload `[c] || bytes(f1) || ... || bytes(fn)`, DEC_BEGIN returns `c` and the field
commands of the same types in the same order return the same fields. -/
def Obligations.DecodingReversesEncoding : Prop :=
  ∀ (s : State) (c : Byte) (fs : List Field), s.rxValid = true → s.rxLen.toNat = (payloadBytes c fs).length →
    s.rxPay.readBytes 0 s.rxLen.toNat = some (payloadBytes c fs) →
    runCommands (.decBegin :: fs.map decodeCommand) s = .next { s with
      decCur := s.rxLen,
      responses := s.responses ++ ⟨.ok, c.setWidth 32⟩ :: fs.map (fun f => ⟨.ok, fieldResult f⟩) }

/-- The round trip (44_encoder.md R179): a message that fits is encoded; the frame's bytes, pushed into an empty ring buffer with room for
them, are extracted by one EXTRACT; decoding with the same types in the same order returns the code and the same field patterns, for every
START, STOP and payload content. -/
def Obligations.EncodeLoopbackDecodeRoundTrip : Prop :=
  ∀ (s : State) (c : Byte) (fs : List Field), s.rb = [] → (payloadBytes c fs).length ≤ 255 →
    4 + (payloadBytes c fs).length ≤ s.cap →
    ∃ t frame u, runCommands (sendCommands c fs) s = .next t ∧
      t.txBuf.readBytes 0 t.txLen.toNat = some frame ∧
      runCommands (frame.map .push ++ .extract :: .decBegin :: fs.map decodeCommand) t = .next u ∧
      u.rb = [] ∧ u.rxPay.readBytes 0 u.rxLen.toNat = some (payloadBytes c fs) ∧
      u.responses = t.responses ++ frame.map (fun _ => ⟨.ok, 0⟩) ++
        ⟨.frame, BitVec.ofNat 32 (payloadBytes c fs).length⟩ :: ⟨.ok, c.setWidth 32⟩ ::
        fs.map (fun f => ⟨.ok, fieldResult f⟩)

/-! ### Frames over all commands -/

/-- Each register is written only by the commands whose rules write it (10_state.md R21 to R34, R35), ERRFLAGS only where the response is a
contract error: what every command leaves unchanged. That no command touches `inputs`, the host's coming events, is the model's choice:
log 2. The response is read from the model's own list: log 3. -/
def Obligations.EachRegisterIsWrittenOnlyByItsCommands : Prop :=
  ∀ (i : Instr) (s t : State), exec i s = .next t →
    t.par = s.par ∧ t.inputs = s.inputs ∧
    (t.rb ≠ s.rb → (∃ b, i = .push b) ∨ i = .pop ∨ i = .clear ∨ i = .extract) ∧
    (t.crcAcc ≠ s.crcAcc → i = .crcClr ∨ ∃ b, i = .crcUpd b) ∧
    (t.rxValid ≠ s.rxValid ∨ t.rxLen ≠ s.rxLen ∨ t.rxPay ≠ s.rxPay → i = .extract) ∧
    (t.decCur ≠ s.decCur → i = .extract ∨ i = .decBegin ∨ i = .decU8 ∨ i = .decI16 ∨ i = .decF32) ∧
    (t.encActive ≠ s.encActive ∨ t.txReady ≠ s.txReady → (∃ b, i = .encBegin b) ∨ i = .encEnd) ∧
    (t.txLen ≠ s.txLen → i = .encEnd) ∧
    (t.encLen ≠ s.encLen →
      (∃ b, i = .encBegin b) ∨ (∃ b, i = .encU8 b) ∨ (∃ h, i = .encI16 h) ∨ ∃ w, i = .encF32 w) ∧
    (t.txBuf ≠ s.txBuf →
      (∃ b, i = .encBegin b) ∨ (∃ b, i = .encU8 b) ∨ (∃ h, i = .encI16 h) ∨ (∃ w, i = .encF32 w) ∨ i = .encEnd) ∧
    (t.errFlags ≠ s.errFlags → ∃ e, t.responses = s.answered (.error e) 0)

/-- PEEK, SIZE, ISEMPTY, CRC_RD, TX_LEN, TX_RD, RX_LEN, RX_RD and ERR_RD change no state when they succeed, and give the same result when
repeated (20_memory.md R59). -/
def Obligations.ReadsHaveNoSideEffect : Prop :=
  ∀ (i : Instr) (s t : State) (r : Word),
    ((∃ k, i = .peek k) ∨ i = .size ∨ i = .isEmpty ∨ i = .crcRd ∨ i = .txLen ∨ (∃ k, i = .txRd k) ∨ i = .rxLen ∨
      (∃ k, i = .rxRd k) ∨ i = .errRd) →
    exec i s = .next t → t.responses = s.answered .ok r →
    t = { s with responses := s.answered .ok r } ∧
    exec i t = .next { t with responses := t.answered .ok r }

/-! ### The invariant -/

/-- The invariant holds after reset, for every instance (70_reset_and_hazards.md R250), and so at `State.reset`. -/
def Obligations.InvariantHoldsAtReset : Prop :=
  (∀ p, (State.resetWith p).Inv) ∧ State.reset.Inv

/-- Every step keeps the invariant: COUNT stays within CAP (10_state.md R21), the stores stay canonical, the views stay readable and hold
what their flags promise (R25, R27, R31, R32), the cursor and the lengths stay in range (R28, R30, R33), ERRFLAGS[7:6] stay 0 (R34). -/
def Obligations.EveryStepKeepsTheInvariant : Prop :=
  ∀ s t : State, s.Inv → step s = .next t → t.Inv

/-- In a state of the invariant every step answers a next state: after reset every command has its full meaning and none reads a byte that
holds no value (70_reset_and_hazards.md R253; 10_state.md R27, R31). -/
def Obligations.NoStepStopsUnderTheInvariant : Prop :=
  ∀ s : State, s.Inv → ∃ t, step s = .next t
end

