-- ==== Sys2Proof/Laws/Memory.lean ====
section
/-! SUPPORT. What the byte store operations do, said once: a read after a write, the canonical form that every write keeps, and
little-endian values. -/

namespace Sys2Proof.Machine

/-! ### One byte -/

@[simp] theorem Memory.read_nil (a : Nat) : Memory.read [] a = none := rfl

/-- A read after a write of one byte. -/
theorem Memory.read_write (m : Memory) (a x : Nat) (v : Byte) :
    (m.write a v).read x = if x = a then some v else m.read x := by
  induction m with
  | nil => simp [Memory.write, Memory.read]
  | cons c m ih =>
    obtain ⟨k, u⟩ := c
    simp only [Memory.write]
    split_ifs <;> simp only [Memory.read] <;> (try rw [ih]) <;> split_ifs <;> first | rfl | omega

@[simp] theorem Memory.read_write_self (m : Memory) (a : Nat) (v : Byte) : (m.write a v).read a = some v := by
  simp [Memory.read_write]

theorem Memory.read_write_ne (m : Memory) {a x : Nat} (v : Byte) (h : x ≠ a) : (m.write a v).read x = m.read x := by
  simp [Memory.read_write, h]

/-! ### Several bytes -/

/-- A read after a write of consecutive bytes. -/
theorem Memory.read_writeBytes (bs : List Byte) (m : Memory) (a x : Nat) :
    (m.writeBytes a bs).read x = if a ≤ x ∧ x < a + bs.length then bs[x - a]? else m.read x := by
  induction bs generalizing m a with
  | nil => simp [Memory.writeBytes]
  | cons b bs ih =>
    rw [Memory.writeBytes, ih, Memory.read_write]
    by_cases h1 : x = a
    · subst h1; simp
    · by_cases h2 : a + 1 ≤ x ∧ x < a + 1 + bs.length
      · rw [if_pos h2, if_pos (by simp only [List.length_cons]; omega)]
        rw [show x - a = (x - (a + 1)) + 1 by omega, List.getElem?_cons_succ]
      · rw [if_neg h2, if_neg h1, if_neg (by simp only [List.length_cons]; omega)]

/-- `readBytes` answers the bytes of the range exactly when every one of them holds a value. -/
theorem Memory.readBytes_eq_some (n : Nat) (m : Memory) (a : Nat) (bs : List Byte) :
    m.readBytes a n = some bs ↔ bs.length = n ∧ ∀ k, k < n → m.read (a + k) = bs[k]? := by
  induction n generalizing a bs with
  | zero =>
    simp only [Memory.readBytes, Option.some.injEq, List.length_eq_zero_iff]
    constructor
    · rintro rfl; exact ⟨rfl, by omega⟩
    · rintro ⟨rfl, -⟩; rfl
  | succ n ih =>
    rw [Memory.readBytes]
    constructor
    · intro h
      split at h
      · cases h
      · rename_i b hb
        split at h
        · cases h
        · rename_i bs' hbs'
          cases h
          obtain ⟨hl, hk⟩ := (ih _ _).1 hbs'
          refine ⟨by simp [hl], fun k hk' => ?_⟩
          cases k with
          | zero => simpa using hb
          | succ k => rw [show a + (k + 1) = a + 1 + k by omega, hk k (by omega), List.getElem?_cons_succ]
    · rintro ⟨hl, hk⟩
      cases bs with
      | nil => simp at hl
      | cons b bs =>
        have h0 := hk 0 (by omega)
        simp only [Nat.add_zero, List.getElem?_cons_zero] at h0
        have h1 : m.readBytes (a + 1) n = some bs :=
          (ih _ _).2 ⟨by simpa using hl, fun k hk' => by
            have := hk (k + 1) (by omega)
            rwa [show a + (k + 1) = a + 1 + k by omega, List.getElem?_cons_succ] at this⟩
        simp [h0, h1]

theorem Memory.readBytes_length {m : Memory} {a n : Nat} {bs : List Byte} (h : m.readBytes a n = some bs) :
    bs.length = n := ((Memory.readBytes_eq_some n m a bs).1 h).1

theorem Memory.read_of_readBytes {m : Memory} {a n : Nat} {bs : List Byte} (h : m.readBytes a n = some bs) {k : Nat}
    (hk : k < n) : m.read (a + k) = bs[k]? := ((Memory.readBytes_eq_some n m a bs).1 h).2 k hk

/-- Reading back what was written. -/
theorem Memory.readBytes_writeBytes_self (m : Memory) (a : Nat) (bs : List Byte) :
    (m.writeBytes a bs).readBytes a bs.length = some bs := by
  rw [Memory.readBytes_eq_some]
  refine ⟨rfl, fun k hk => ?_⟩
  rw [Memory.read_writeBytes, if_pos (by omega), Nat.add_sub_cancel_left]

/-- Reading depends only on the bytes of the range. -/
theorem Memory.readBytes_congr {m m' : Memory} {a n : Nat} (h : ∀ k, k < n → m.read (a + k) = m'.read (a + k)) :
    m.readBytes a n = m'.readBytes a n := by
  induction n generalizing a with
  | zero => rfl
  | succ n ih =>
    have h0 := h 0 (by omega)
    have h1 : m.readBytes (a + 1) n = m'.readBytes (a + 1) n :=
      ih fun k hk => by
        have := h (k + 1) (by omega)
        rwa [show a + (k + 1) = a + 1 + k by omega] at this
    simp only [Nat.add_zero] at h0
    rw [Memory.readBytes, Memory.readBytes, h0, h1]

/-! ### The canonical form -/

theorem Memory.risingFrom_mono {lo lo' : Nat} {m : Memory} (h : lo' ≤ lo) (hm : m.risingFrom lo = true) :
    m.risingFrom lo' = true := by
  cases m with
  | nil => rfl
  | cons c m =>
    simp only [Memory.risingFrom, Bool.and_eq_true, decide_eq_true_eq] at hm ⊢
    exact ⟨by omega, hm.2⟩

theorem Memory.risingFrom_write {lo a : Nat} {m : Memory} (v : Byte) (h : lo ≤ a) (hm : m.risingFrom lo = true) :
    (m.write a v).risingFrom lo = true := by
  induction m generalizing lo with
  | nil => simp [Memory.write, Memory.risingFrom, h]
  | cons c m ih =>
    obtain ⟨k, u⟩ := c
    simp only [Memory.risingFrom, Bool.and_eq_true, decide_eq_true_eq] at hm
    simp only [Memory.write]
    split_ifs with h1 h2
    · simp only [Memory.risingFrom, Bool.and_eq_true, decide_eq_true_eq]
      exact ⟨h, by omega, hm.2⟩
    · simp only [Memory.risingFrom, Bool.and_eq_true, decide_eq_true_eq]
      exact ⟨h, h2 ▸ hm.2⟩
    · simp only [Memory.risingFrom, Bool.and_eq_true, decide_eq_true_eq]
      exact ⟨hm.1, ih (by omega) hm.2⟩

theorem Memory.all_write {p : Host.Cell → Bool} {a : Nat} {v : Byte} {m : Memory} (ha : p (a, v) = true)
    (hm : m.all p = true) : (m.write a v).all p = true := by
  induction m with
  | nil => simpa [Memory.write] using ha
  | cons c m ih =>
    obtain ⟨k, u⟩ := c
    simp only [List.all_cons, Bool.and_eq_true] at hm
    simp only [Memory.write]
    split_ifs <;> simp only [List.all_cons, Bool.and_eq_true]
    · exact ⟨ha, hm⟩
    · exact ⟨ha, hm.2⟩
    · exact ⟨hm.1, ih hm.2⟩

/-- The empty store, a store's value at reset, is in canonical form. -/
@[simp] theorem Memory.wf_nil (size : Nat) : Memory.wf size [] = true := rfl

/-- A write inside the store keeps the canonical form. -/
theorem Memory.wf_write {size a : Nat} {m : Memory} (v : Byte) (ha : a < size) (hm : Memory.wf size m = true) :
    Memory.wf size (m.write a v) = true := by
  simp only [Memory.wf, Bool.and_eq_true] at hm ⊢
  exact ⟨Memory.risingFrom_write v (Nat.zero_le a) hm.1, Memory.all_write (by simpa using ha) hm.2⟩

/-- A write of consecutive bytes inside the store keeps the canonical form. -/
theorem Memory.wf_writeBytes {size : Nat} {bs : List Byte} {m : Memory} {a : Nat} (ha : a + bs.length ≤ size)
    (hm : Memory.wf size m = true) : Memory.wf size (m.writeBytes a bs) = true := by
  induction bs generalizing m a with
  | nil => exact hm
  | cons b bs ih =>
    simp only [List.length_cons] at ha
    exact ih (by omega) (Memory.wf_write b (by omega) hm)

/-- `MemWrite` inside the store keeps the canonical form. -/
theorem Memory.wf_memWrite {size a n : Nat} {m : Memory} (v : Word) (ha : a + n ≤ size) (hm : Memory.wf size m = true) :
    Memory.wf size (m.memWrite a n v) = true :=
  Memory.wf_writeBytes (by simpa [leBytes] using ha) hm

/-- In canonical form, no byte outside the store holds a value. -/
theorem Memory.read_of_wf {size a : Nat} {m : Memory} (hm : Memory.wf size m = true) (ha : size ≤ a) : m.read a = none := by
  simp only [Memory.wf, Bool.and_eq_true] at hm
  have h := hm.2
  clear hm
  induction m with
  | nil => rfl
  | cons c m ih =>
    obtain ⟨k, u⟩ := c
    simp only [List.all_cons, Bool.and_eq_true, decide_eq_true_eq] at h
    rw [Memory.read, if_neg (by omega), ih h.2]

/-- No byte below the first listed index holds a value. -/
theorem Memory.read_lt_none {lo a : Nat} {m : Memory} (hm : m.risingFrom lo = true) (h : a < lo) : m.read a = none := by
  induction m generalizing lo with
  | nil => rfl
  | cons c m ih =>
    obtain ⟨k, u⟩ := c
    simp only [Memory.risingFrom, Bool.and_eq_true, decide_eq_true_eq] at hm
    rw [Memory.read, if_neg (by omega), ih hm.2 (by omega)]

theorem Memory.eq_of_read_eq_from {lo : Nat} {m m' : Memory} (hm : m.risingFrom lo = true) (hm' : m'.risingFrom lo = true)
    (h : ∀ a, m.read a = m'.read a) : m = m' := by
  induction m generalizing lo m' with
  | nil =>
    cases m' with
    | nil => rfl
    | cons c m' => obtain ⟨k, u⟩ := c; have := h k; simp [Memory.read] at this
  | cons c m ih =>
    obtain ⟨k, u⟩ := c
    cases m' with
    | nil => have := h k; simp [Memory.read] at this
    | cons c' m' =>
      obtain ⟨k', u'⟩ := c'
      simp only [Memory.risingFrom, Bool.and_eq_true, decide_eq_true_eq] at hm hm'
      have hk : k = k' := by
        rcases Nat.lt_trichotomy k k' with hlt | heq | hgt
        · have := h k
          rw [Memory.read, if_pos rfl, Memory.read, if_neg (by omega), Memory.read_lt_none hm'.2 (by omega)] at this
          cases this
        · exact heq
        · have := h k'
          rw [Memory.read, if_neg (by omega), Memory.read_lt_none hm.2 (by omega), Memory.read, if_pos rfl] at this
          cases this
      subst hk
      have hu : u = u' := by simpa [Memory.read] using h k
      subst hu
      have : m = m' := ih hm.2 hm'.2 fun a => by
        by_cases ha : a = k
        · subst ha; rw [Memory.read_lt_none hm.2 (by omega), Memory.read_lt_none hm'.2 (by omega)]
        · have := h a; simpa [Memory.read, ha] using this
      rw [this]

/-- Two stores in canonical form whose bytes read the same are the same. -/
theorem Memory.eq_of_read_eq {size : Nat} {m m' : Memory} (hm : Memory.wf size m = true) (hm' : Memory.wf size m' = true)
    (h : ∀ a, m.read a = m'.read a) : m = m' := by
  simp only [Memory.wf, Bool.and_eq_true] at hm hm'
  exact Memory.eq_of_read_eq_from hm.1 hm'.1 h

/-! ### Little-endian values -/

@[simp] theorem leBytes_length (n : Nat) (v : Word) : (leBytes n v).length = n := by simp [leBytes]

theorem leBytes_getElem? (n : Nat) (v : Word) {k : Nat} (h : k < n) : (leBytes n v)[k]? = some (v.extractLsb' (8 * k) 8) := by
  simp [leBytes, h]

@[simp] theorem leBytes_one (v : Word) : leBytes 1 v = [v.extractLsb' 0 8] := rfl
@[simp] theorem leBytes_two (v : Word) : leBytes 2 v = [v.extractLsb' 0 8, v.extractLsb' 8 8] := rfl
@[simp] theorem leBytes_four (v : Word) :
    leBytes 4 v = [v.extractLsb' 0 8, v.extractLsb' 8 8, v.extractLsb' 16 8, v.extractLsb' 24 8] := rfl

/-- The first byte of a little-endian value is its bits 7:0. -/
theorem leValue_cons_getLsbD (b : Byte) (bs : List Byte) (i : Nat) (h : i < 32) :
    (leValue (b :: bs)).getLsbD i = if i < 8 then b.getLsbD i else (leValue bs).getLsbD (i - 8) := by
  rw [leValue, BitVec.getLsbD_or, BitVec.getLsbD_shiftLeft, BitVec.getLsbD_setWidth]
  by_cases h8 : i < 8
  · simp [h8, h]
  · simp [h8, h, BitVec.getLsbD_of_ge b i (by omega)]

/-- The value of one byte. -/
theorem leValue_one (a : Byte) : leValue [a] = a.setWidth 32 := by
  ext i hi
  rw [BitVec.getElem_setWidth, ← BitVec.getLsbD_eq_getElem, leValue_cons_getLsbD _ _ _ hi]
  split_ifs with h8
  · rfl
  · rw [BitVec.getLsbD_of_ge a i (by omega)]; simp [leValue]

/-- The value of two bytes: the first is bits 7:0 (20_memory.md R52). -/
theorem leValue_two (a b : Byte) : leValue [a, b] = (b ++ a).setWidth 32 := by
  ext i hi
  rw [BitVec.getElem_setWidth, ← BitVec.getLsbD_eq_getElem, leValue_cons_getLsbD _ _ _ hi, BitVec.getLsbD_append, leValue_one,
    BitVec.getLsbD_setWidth]
  by_cases h8 : i < 8 <;> simp [h8]
  omega

/-- The value of four bytes: the first is bits 7:0 (20_memory.md R52). -/
theorem leValue_four (a b c d : Byte) : leValue [a, b, c, d] = (d ++ (c ++ (b ++ a)) : BitVec 32) := by
  ext i hi
  rw [← BitVec.getLsbD_eq_getElem, ← BitVec.getLsbD_eq_getElem, leValue_cons_getLsbD _ _ _ hi, BitVec.getLsbD_append,
    BitVec.getLsbD_append, BitVec.getLsbD_append]
  by_cases h8 : i < 8
  · simp [h8, show i < 24 by omega, show i < 16 by omega]
  · rw [if_neg h8, leValue_cons_getLsbD _ _ _ (by omega)]
    by_cases h16 : i < 16
    · simp [h8, h16, show i < 24 by omega, show i - 8 < 8 by omega]
    · rw [if_neg (by omega), leValue_two, BitVec.getLsbD_setWidth, BitVec.getLsbD_append]
      by_cases h24 : i < 24
      · simp [h16, h24, show i - 16 < 8 by omega, show i - 8 - 8 = i - 16 by omega, show i - 16 < 32 by omega]
      · simp [h24, show ¬ i - 16 < 8 by omega, show i - 16 < 32 by omega,
          show i - 8 - 8 = i - 16 by omega, show i - 16 - 8 = i - 24 by omega]

/-- Reading back a `MemWrite` gives the value's low bytes again. -/
theorem Memory.memRead_memWrite_self (m : Memory) (a n : Nat) (v : Word) :
    (m.memWrite a n v).memRead a n = some (leValue (leBytes n v)) := by
  have h := Memory.readBytes_writeBytes_self m a (leBytes n v)
  rw [leBytes_length] at h
  simp [Memory.memRead, Memory.memWrite, h]

end Sys2Proof.Machine
end

