-- ==== Sys2Proof/Laws/State.lean ====
section
/-! SUPPORT. One lemma per field of State and per update of Machine/Ops.lean and Machine/Flags.lean, true by rfl, so that no proof
unfolds a record update. -/

namespace Sys2Proof.Machine

variable (s : State)

/-! ### `setRb`: `RB <- l` -/

@[simp] theorem State.setRb_par (l : List Byte) : (s.setRb l).par = s.par := rfl
@[simp] theorem State.setRb_rb (l : List Byte) : (s.setRb l).rb = l := rfl
@[simp] theorem State.setRb_crcAcc (l : List Byte) : (s.setRb l).crcAcc = s.crcAcc := rfl
@[simp] theorem State.setRb_rxValid (l : List Byte) : (s.setRb l).rxValid = s.rxValid := rfl
@[simp] theorem State.setRb_rxLen (l : List Byte) : (s.setRb l).rxLen = s.rxLen := rfl
@[simp] theorem State.setRb_rxPay (l : List Byte) : (s.setRb l).rxPay = s.rxPay := rfl
@[simp] theorem State.setRb_decCur (l : List Byte) : (s.setRb l).decCur = s.decCur := rfl
@[simp] theorem State.setRb_encActive (l : List Byte) : (s.setRb l).encActive = s.encActive := rfl
@[simp] theorem State.setRb_encLen (l : List Byte) : (s.setRb l).encLen = s.encLen := rfl
@[simp] theorem State.setRb_txBuf (l : List Byte) : (s.setRb l).txBuf = s.txBuf := rfl
@[simp] theorem State.setRb_txReady (l : List Byte) : (s.setRb l).txReady = s.txReady := rfl
@[simp] theorem State.setRb_txLen (l : List Byte) : (s.setRb l).txLen = s.txLen := rfl
@[simp] theorem State.setRb_errFlags (l : List Byte) : (s.setRb l).errFlags = s.errFlags := rfl
@[simp] theorem State.setRb_inputs (l : List Byte) : (s.setRb l).inputs = s.inputs := rfl
@[simp] theorem State.setRb_responses (l : List Byte) : (s.setRb l).responses = s.responses := rfl

/-! ### `append`: `append(b)` (41_ring_buffer.md R100) -/

@[simp] theorem State.append_par (b : Byte) : (s.append b).par = s.par := rfl
@[simp] theorem State.append_rb (b : Byte) : (s.append b).rb = s.rb ++ [b] := rfl
@[simp] theorem State.append_crcAcc (b : Byte) : (s.append b).crcAcc = s.crcAcc := rfl
@[simp] theorem State.append_rxValid (b : Byte) : (s.append b).rxValid = s.rxValid := rfl
@[simp] theorem State.append_rxLen (b : Byte) : (s.append b).rxLen = s.rxLen := rfl
@[simp] theorem State.append_rxPay (b : Byte) : (s.append b).rxPay = s.rxPay := rfl
@[simp] theorem State.append_decCur (b : Byte) : (s.append b).decCur = s.decCur := rfl
@[simp] theorem State.append_encActive (b : Byte) : (s.append b).encActive = s.encActive := rfl
@[simp] theorem State.append_encLen (b : Byte) : (s.append b).encLen = s.encLen := rfl
@[simp] theorem State.append_txBuf (b : Byte) : (s.append b).txBuf = s.txBuf := rfl
@[simp] theorem State.append_txReady (b : Byte) : (s.append b).txReady = s.txReady := rfl
@[simp] theorem State.append_txLen (b : Byte) : (s.append b).txLen = s.txLen := rfl
@[simp] theorem State.append_errFlags (b : Byte) : (s.append b).errFlags = s.errFlags := rfl
@[simp] theorem State.append_inputs (b : Byte) : (s.append b).inputs = s.inputs := rfl
@[simp] theorem State.append_responses (b : Byte) : (s.append b).responses = s.responses := rfl

/-! ### `dropFront`: `drop_front()`, `n` times (41_ring_buffer.md R100) -/

@[simp] theorem State.dropFront_par (n : Nat) : (s.dropFront n).par = s.par := rfl
@[simp] theorem State.dropFront_rb (n : Nat) : (s.dropFront n).rb = s.rb.drop n := rfl
@[simp] theorem State.dropFront_crcAcc (n : Nat) : (s.dropFront n).crcAcc = s.crcAcc := rfl
@[simp] theorem State.dropFront_rxValid (n : Nat) : (s.dropFront n).rxValid = s.rxValid := rfl
@[simp] theorem State.dropFront_rxLen (n : Nat) : (s.dropFront n).rxLen = s.rxLen := rfl
@[simp] theorem State.dropFront_rxPay (n : Nat) : (s.dropFront n).rxPay = s.rxPay := rfl
@[simp] theorem State.dropFront_decCur (n : Nat) : (s.dropFront n).decCur = s.decCur := rfl
@[simp] theorem State.dropFront_encActive (n : Nat) : (s.dropFront n).encActive = s.encActive := rfl
@[simp] theorem State.dropFront_encLen (n : Nat) : (s.dropFront n).encLen = s.encLen := rfl
@[simp] theorem State.dropFront_txBuf (n : Nat) : (s.dropFront n).txBuf = s.txBuf := rfl
@[simp] theorem State.dropFront_txReady (n : Nat) : (s.dropFront n).txReady = s.txReady := rfl
@[simp] theorem State.dropFront_txLen (n : Nat) : (s.dropFront n).txLen = s.txLen := rfl
@[simp] theorem State.dropFront_errFlags (n : Nat) : (s.dropFront n).errFlags = s.errFlags := rfl
@[simp] theorem State.dropFront_inputs (n : Nat) : (s.dropFront n).inputs = s.inputs := rfl
@[simp] theorem State.dropFront_responses (n : Nat) : (s.dropFront n).responses = s.responses := rfl

/-! ### `setErrFlag`: the sticky bit (10_state.md R34) -/

@[simp] theorem State.setErrFlag_par (e : ContractError) : (s.setErrFlag e).par = s.par := rfl
@[simp] theorem State.setErrFlag_rb (e : ContractError) : (s.setErrFlag e).rb = s.rb := rfl
@[simp] theorem State.setErrFlag_crcAcc (e : ContractError) : (s.setErrFlag e).crcAcc = s.crcAcc := rfl
@[simp] theorem State.setErrFlag_rxValid (e : ContractError) : (s.setErrFlag e).rxValid = s.rxValid := rfl
@[simp] theorem State.setErrFlag_rxLen (e : ContractError) : (s.setErrFlag e).rxLen = s.rxLen := rfl
@[simp] theorem State.setErrFlag_rxPay (e : ContractError) : (s.setErrFlag e).rxPay = s.rxPay := rfl
@[simp] theorem State.setErrFlag_decCur (e : ContractError) : (s.setErrFlag e).decCur = s.decCur := rfl
@[simp] theorem State.setErrFlag_encActive (e : ContractError) : (s.setErrFlag e).encActive = s.encActive := rfl
@[simp] theorem State.setErrFlag_encLen (e : ContractError) : (s.setErrFlag e).encLen = s.encLen := rfl
@[simp] theorem State.setErrFlag_txBuf (e : ContractError) : (s.setErrFlag e).txBuf = s.txBuf := rfl
@[simp] theorem State.setErrFlag_txReady (e : ContractError) : (s.setErrFlag e).txReady = s.txReady := rfl
@[simp] theorem State.setErrFlag_txLen (e : ContractError) : (s.setErrFlag e).txLen = s.txLen := rfl
@[simp] theorem State.setErrFlag_errFlags (e : ContractError) : (s.setErrFlag e).errFlags = s.errFlags ||| errBit e := rfl
@[simp] theorem State.setErrFlag_inputs (e : ContractError) : (s.setErrFlag e).inputs = s.inputs := rfl
@[simp] theorem State.setErrFlag_responses (e : ContractError) : (s.setErrFlag e).responses = s.responses := rfl

/-! ### `respond`: `respond` (00_scope.md R15) -/

@[simp] theorem State.respond_par (st : Status) (r : Word) : (s.respond st r).par = s.par := rfl
@[simp] theorem State.respond_rb (st : Status) (r : Word) : (s.respond st r).rb = s.rb := rfl
@[simp] theorem State.respond_crcAcc (st : Status) (r : Word) : (s.respond st r).crcAcc = s.crcAcc := rfl
@[simp] theorem State.respond_rxValid (st : Status) (r : Word) : (s.respond st r).rxValid = s.rxValid := rfl
@[simp] theorem State.respond_rxLen (st : Status) (r : Word) : (s.respond st r).rxLen = s.rxLen := rfl
@[simp] theorem State.respond_rxPay (st : Status) (r : Word) : (s.respond st r).rxPay = s.rxPay := rfl
@[simp] theorem State.respond_decCur (st : Status) (r : Word) : (s.respond st r).decCur = s.decCur := rfl
@[simp] theorem State.respond_encActive (st : Status) (r : Word) : (s.respond st r).encActive = s.encActive := rfl
@[simp] theorem State.respond_encLen (st : Status) (r : Word) : (s.respond st r).encLen = s.encLen := rfl
@[simp] theorem State.respond_txBuf (st : Status) (r : Word) : (s.respond st r).txBuf = s.txBuf := rfl
@[simp] theorem State.respond_txReady (st : Status) (r : Word) : (s.respond st r).txReady = s.txReady := rfl
@[simp] theorem State.respond_txLen (st : Status) (r : Word) : (s.respond st r).txLen = s.txLen := rfl
@[simp] theorem State.respond_errFlags (st : Status) (r : Word) : (s.respond st r).errFlags = s.errFlags := rfl
@[simp] theorem State.respond_inputs (st : Status) (r : Word) : (s.respond st r).inputs = s.inputs := rfl
@[simp] theorem State.respond_responses (st : Status) (r : Word) : (s.respond st r).responses = s.responses ++ [⟨st, r⟩] := rfl

/-! ### `raiseErr`: a contract error (60_exceptions.md R224) -/

@[simp] theorem State.raiseErr_par (e : ContractError) : (s.raiseErr e).par = s.par := rfl
@[simp] theorem State.raiseErr_rb (e : ContractError) : (s.raiseErr e).rb = s.rb := rfl
@[simp] theorem State.raiseErr_crcAcc (e : ContractError) : (s.raiseErr e).crcAcc = s.crcAcc := rfl
@[simp] theorem State.raiseErr_rxValid (e : ContractError) : (s.raiseErr e).rxValid = s.rxValid := rfl
@[simp] theorem State.raiseErr_rxLen (e : ContractError) : (s.raiseErr e).rxLen = s.rxLen := rfl
@[simp] theorem State.raiseErr_rxPay (e : ContractError) : (s.raiseErr e).rxPay = s.rxPay := rfl
@[simp] theorem State.raiseErr_decCur (e : ContractError) : (s.raiseErr e).decCur = s.decCur := rfl
@[simp] theorem State.raiseErr_encActive (e : ContractError) : (s.raiseErr e).encActive = s.encActive := rfl
@[simp] theorem State.raiseErr_encLen (e : ContractError) : (s.raiseErr e).encLen = s.encLen := rfl
@[simp] theorem State.raiseErr_txBuf (e : ContractError) : (s.raiseErr e).txBuf = s.txBuf := rfl
@[simp] theorem State.raiseErr_txReady (e : ContractError) : (s.raiseErr e).txReady = s.txReady := rfl
@[simp] theorem State.raiseErr_txLen (e : ContractError) : (s.raiseErr e).txLen = s.txLen := rfl
@[simp] theorem State.raiseErr_errFlags (e : ContractError) : (s.raiseErr e).errFlags = s.errFlags ||| errBit e := rfl
@[simp] theorem State.raiseErr_inputs (e : ContractError) : (s.raiseErr e).inputs = s.inputs := rfl
@[simp] theorem State.raiseErr_responses (e : ContractError) : (s.raiseErr e).responses = s.responses ++ [⟨.error e, 0⟩] := rfl

/-! ### `endRxView`: `RX_VALID <- 0` (43_frame_parser.md R147) -/

@[simp] theorem State.endRxView_par : (s.endRxView).par = s.par := rfl
@[simp] theorem State.endRxView_rb : (s.endRxView).rb = s.rb := rfl
@[simp] theorem State.endRxView_crcAcc : (s.endRxView).crcAcc = s.crcAcc := rfl
@[simp] theorem State.endRxView_rxValid : (s.endRxView).rxValid = false := rfl
@[simp] theorem State.endRxView_rxLen : (s.endRxView).rxLen = s.rxLen := rfl
@[simp] theorem State.endRxView_rxPay : (s.endRxView).rxPay = s.rxPay := rfl
@[simp] theorem State.endRxView_decCur : (s.endRxView).decCur = s.decCur := rfl
@[simp] theorem State.endRxView_encActive : (s.endRxView).encActive = s.encActive := rfl
@[simp] theorem State.endRxView_encLen : (s.endRxView).encLen = s.encLen := rfl
@[simp] theorem State.endRxView_txBuf : (s.endRxView).txBuf = s.txBuf := rfl
@[simp] theorem State.endRxView_txReady : (s.endRxView).txReady = s.txReady := rfl
@[simp] theorem State.endRxView_txLen : (s.endRxView).txLen = s.txLen := rfl
@[simp] theorem State.endRxView_errFlags : (s.endRxView).errFlags = s.errFlags := rfl
@[simp] theorem State.endRxView_inputs : (s.endRxView).inputs = s.inputs := rfl
@[simp] theorem State.endRxView_responses : (s.endRxView).responses = s.responses := rfl

/-! ### `copyPayload`: step 7 of EXTRACT (43_frame_parser.md R145) -/

@[simp] theorem State.copyPayload_par (l : Byte) (p : List Byte) : (s.copyPayload l p).par = s.par := rfl
@[simp] theorem State.copyPayload_rb (l : Byte) (p : List Byte) : (s.copyPayload l p).rb = s.rb := rfl
@[simp] theorem State.copyPayload_crcAcc (l : Byte) (p : List Byte) : (s.copyPayload l p).crcAcc = s.crcAcc := rfl
@[simp] theorem State.copyPayload_rxValid (l : Byte) (p : List Byte) : (s.copyPayload l p).rxValid = s.rxValid := rfl
@[simp] theorem State.copyPayload_rxLen (l : Byte) (p : List Byte) : (s.copyPayload l p).rxLen = l := rfl
@[simp] theorem State.copyPayload_rxPay (l : Byte) (p : List Byte) : (s.copyPayload l p).rxPay = Memory.writeBytes s.rxPay 0 p := rfl
@[simp] theorem State.copyPayload_decCur (l : Byte) (p : List Byte) : (s.copyPayload l p).decCur = s.decCur := rfl
@[simp] theorem State.copyPayload_encActive (l : Byte) (p : List Byte) : (s.copyPayload l p).encActive = s.encActive := rfl
@[simp] theorem State.copyPayload_encLen (l : Byte) (p : List Byte) : (s.copyPayload l p).encLen = s.encLen := rfl
@[simp] theorem State.copyPayload_txBuf (l : Byte) (p : List Byte) : (s.copyPayload l p).txBuf = s.txBuf := rfl
@[simp] theorem State.copyPayload_txReady (l : Byte) (p : List Byte) : (s.copyPayload l p).txReady = s.txReady := rfl
@[simp] theorem State.copyPayload_txLen (l : Byte) (p : List Byte) : (s.copyPayload l p).txLen = s.txLen := rfl
@[simp] theorem State.copyPayload_errFlags (l : Byte) (p : List Byte) : (s.copyPayload l p).errFlags = s.errFlags := rfl
@[simp] theorem State.copyPayload_inputs (l : Byte) (p : List Byte) : (s.copyPayload l p).inputs = s.inputs := rfl
@[simp] theorem State.copyPayload_responses (l : Byte) (p : List Byte) : (s.copyPayload l p).responses = s.responses := rfl

/-! ### `openRxView`: step 9 of EXTRACT (43_frame_parser.md R146) -/

@[simp] theorem State.openRxView_par : (s.openRxView).par = s.par := rfl
@[simp] theorem State.openRxView_rb : (s.openRxView).rb = s.rb := rfl
@[simp] theorem State.openRxView_crcAcc : (s.openRxView).crcAcc = s.crcAcc := rfl
@[simp] theorem State.openRxView_rxValid : (s.openRxView).rxValid = true := rfl
@[simp] theorem State.openRxView_rxLen : (s.openRxView).rxLen = s.rxLen := rfl
@[simp] theorem State.openRxView_rxPay : (s.openRxView).rxPay = s.rxPay := rfl
@[simp] theorem State.openRxView_decCur : (s.openRxView).decCur = 0 := rfl
@[simp] theorem State.openRxView_encActive : (s.openRxView).encActive = s.encActive := rfl
@[simp] theorem State.openRxView_encLen : (s.openRxView).encLen = s.encLen := rfl
@[simp] theorem State.openRxView_txBuf : (s.openRxView).txBuf = s.txBuf := rfl
@[simp] theorem State.openRxView_txReady : (s.openRxView).txReady = s.txReady := rfl
@[simp] theorem State.openRxView_txLen : (s.openRxView).txLen = s.txLen := rfl
@[simp] theorem State.openRxView_errFlags : (s.openRxView).errFlags = s.errFlags := rfl
@[simp] theorem State.openRxView_inputs : (s.openRxView).inputs = s.inputs := rfl
@[simp] theorem State.openRxView_responses : (s.openRxView).responses = s.responses := rfl

/-! ### `setDecCur`: `DEC_CUR <- c` -/

@[simp] theorem State.setDecCur_par (c : Byte) : (s.setDecCur c).par = s.par := rfl
@[simp] theorem State.setDecCur_rb (c : Byte) : (s.setDecCur c).rb = s.rb := rfl
@[simp] theorem State.setDecCur_crcAcc (c : Byte) : (s.setDecCur c).crcAcc = s.crcAcc := rfl
@[simp] theorem State.setDecCur_rxValid (c : Byte) : (s.setDecCur c).rxValid = s.rxValid := rfl
@[simp] theorem State.setDecCur_rxLen (c : Byte) : (s.setDecCur c).rxLen = s.rxLen := rfl
@[simp] theorem State.setDecCur_rxPay (c : Byte) : (s.setDecCur c).rxPay = s.rxPay := rfl
@[simp] theorem State.setDecCur_decCur (c : Byte) : (s.setDecCur c).decCur = c := rfl
@[simp] theorem State.setDecCur_encActive (c : Byte) : (s.setDecCur c).encActive = s.encActive := rfl
@[simp] theorem State.setDecCur_encLen (c : Byte) : (s.setDecCur c).encLen = s.encLen := rfl
@[simp] theorem State.setDecCur_txBuf (c : Byte) : (s.setDecCur c).txBuf = s.txBuf := rfl
@[simp] theorem State.setDecCur_txReady (c : Byte) : (s.setDecCur c).txReady = s.txReady := rfl
@[simp] theorem State.setDecCur_txLen (c : Byte) : (s.setDecCur c).txLen = s.txLen := rfl
@[simp] theorem State.setDecCur_errFlags (c : Byte) : (s.setDecCur c).errFlags = s.errFlags := rfl
@[simp] theorem State.setDecCur_inputs (c : Byte) : (s.setDecCur c).inputs = s.inputs := rfl
@[simp] theorem State.setDecCur_responses (c : Byte) : (s.setDecCur c).responses = s.responses := rfl

/-! ### `setCrcAcc`: `CRCACC <- c` -/

@[simp] theorem State.setCrcAcc_par (c : Byte) : (s.setCrcAcc c).par = s.par := rfl
@[simp] theorem State.setCrcAcc_rb (c : Byte) : (s.setCrcAcc c).rb = s.rb := rfl
@[simp] theorem State.setCrcAcc_crcAcc (c : Byte) : (s.setCrcAcc c).crcAcc = c := rfl
@[simp] theorem State.setCrcAcc_rxValid (c : Byte) : (s.setCrcAcc c).rxValid = s.rxValid := rfl
@[simp] theorem State.setCrcAcc_rxLen (c : Byte) : (s.setCrcAcc c).rxLen = s.rxLen := rfl
@[simp] theorem State.setCrcAcc_rxPay (c : Byte) : (s.setCrcAcc c).rxPay = s.rxPay := rfl
@[simp] theorem State.setCrcAcc_decCur (c : Byte) : (s.setCrcAcc c).decCur = s.decCur := rfl
@[simp] theorem State.setCrcAcc_encActive (c : Byte) : (s.setCrcAcc c).encActive = s.encActive := rfl
@[simp] theorem State.setCrcAcc_encLen (c : Byte) : (s.setCrcAcc c).encLen = s.encLen := rfl
@[simp] theorem State.setCrcAcc_txBuf (c : Byte) : (s.setCrcAcc c).txBuf = s.txBuf := rfl
@[simp] theorem State.setCrcAcc_txReady (c : Byte) : (s.setCrcAcc c).txReady = s.txReady := rfl
@[simp] theorem State.setCrcAcc_txLen (c : Byte) : (s.setCrcAcc c).txLen = s.txLen := rfl
@[simp] theorem State.setCrcAcc_errFlags (c : Byte) : (s.setCrcAcc c).errFlags = s.errFlags := rfl
@[simp] theorem State.setCrcAcc_inputs (c : Byte) : (s.setCrcAcc c).inputs = s.inputs := rfl
@[simp] theorem State.setCrcAcc_responses (c : Byte) : (s.setCrcAcc c).responses = s.responses := rfl

/-! ### `beginEncode`: ENC_BEGIN (44_encoder.md R170) -/

@[simp] theorem State.beginEncode_par (b : Byte) : (s.beginEncode b).par = s.par := rfl
@[simp] theorem State.beginEncode_rb (b : Byte) : (s.beginEncode b).rb = s.rb := rfl
@[simp] theorem State.beginEncode_crcAcc (b : Byte) : (s.beginEncode b).crcAcc = s.crcAcc := rfl
@[simp] theorem State.beginEncode_rxValid (b : Byte) : (s.beginEncode b).rxValid = s.rxValid := rfl
@[simp] theorem State.beginEncode_rxLen (b : Byte) : (s.beginEncode b).rxLen = s.rxLen := rfl
@[simp] theorem State.beginEncode_rxPay (b : Byte) : (s.beginEncode b).rxPay = s.rxPay := rfl
@[simp] theorem State.beginEncode_decCur (b : Byte) : (s.beginEncode b).decCur = s.decCur := rfl
@[simp] theorem State.beginEncode_encActive (b : Byte) : (s.beginEncode b).encActive = true := rfl
@[simp] theorem State.beginEncode_encLen (b : Byte) : (s.beginEncode b).encLen = 1 := rfl
@[simp] theorem State.beginEncode_txBuf (b : Byte) : (s.beginEncode b).txBuf = (s.txBuf.write 0 s.par.start).write 2 b := rfl
@[simp] theorem State.beginEncode_txReady (b : Byte) : (s.beginEncode b).txReady = false := rfl
@[simp] theorem State.beginEncode_txLen (b : Byte) : (s.beginEncode b).txLen = s.txLen := rfl
@[simp] theorem State.beginEncode_errFlags (b : Byte) : (s.beginEncode b).errFlags = s.errFlags := rfl
@[simp] theorem State.beginEncode_inputs (b : Byte) : (s.beginEncode b).inputs = s.inputs := rfl
@[simp] theorem State.beginEncode_responses (b : Byte) : (s.beginEncode b).responses = s.responses := rfl

/-! ### `putField`: a field command (44_encoder.md R171 to R173) -/

@[simp] theorem State.putField_par (n : Nat) (v : Word) : (s.putField n v).par = s.par := rfl
@[simp] theorem State.putField_rb (n : Nat) (v : Word) : (s.putField n v).rb = s.rb := rfl
@[simp] theorem State.putField_crcAcc (n : Nat) (v : Word) : (s.putField n v).crcAcc = s.crcAcc := rfl
@[simp] theorem State.putField_rxValid (n : Nat) (v : Word) : (s.putField n v).rxValid = s.rxValid := rfl
@[simp] theorem State.putField_rxLen (n : Nat) (v : Word) : (s.putField n v).rxLen = s.rxLen := rfl
@[simp] theorem State.putField_rxPay (n : Nat) (v : Word) : (s.putField n v).rxPay = s.rxPay := rfl
@[simp] theorem State.putField_decCur (n : Nat) (v : Word) : (s.putField n v).decCur = s.decCur := rfl
@[simp] theorem State.putField_encActive (n : Nat) (v : Word) : (s.putField n v).encActive = s.encActive := rfl
@[simp] theorem State.putField_encLen (n : Nat) (v : Word) : (s.putField n v).encLen = s.encLen + BitVec.ofNat 8 n := rfl
@[simp] theorem State.putField_txBuf (n : Nat) (v : Word) : (s.putField n v).txBuf = s.txBuf.memWrite s.fieldIndex n v := rfl
@[simp] theorem State.putField_txReady (n : Nat) (v : Word) : (s.putField n v).txReady = s.txReady := rfl
@[simp] theorem State.putField_txLen (n : Nat) (v : Word) : (s.putField n v).txLen = s.txLen := rfl
@[simp] theorem State.putField_errFlags (n : Nat) (v : Word) : (s.putField n v).errFlags = s.errFlags := rfl
@[simp] theorem State.putField_inputs (n : Nat) (v : Word) : (s.putField n v).inputs = s.inputs := rfl
@[simp] theorem State.putField_responses (n : Nat) (v : Word) : (s.putField n v).responses = s.responses := rfl

/-! ### `finishFrame`: ENC_END (44_encoder.md R174) -/

@[simp] theorem State.finishFrame_par (c : Byte) : (s.finishFrame c).par = s.par := rfl
@[simp] theorem State.finishFrame_rb (c : Byte) : (s.finishFrame c).rb = s.rb := rfl
@[simp] theorem State.finishFrame_crcAcc (c : Byte) : (s.finishFrame c).crcAcc = s.crcAcc := rfl
@[simp] theorem State.finishFrame_rxValid (c : Byte) : (s.finishFrame c).rxValid = s.rxValid := rfl
@[simp] theorem State.finishFrame_rxLen (c : Byte) : (s.finishFrame c).rxLen = s.rxLen := rfl
@[simp] theorem State.finishFrame_rxPay (c : Byte) : (s.finishFrame c).rxPay = s.rxPay := rfl
@[simp] theorem State.finishFrame_decCur (c : Byte) : (s.finishFrame c).decCur = s.decCur := rfl
@[simp] theorem State.finishFrame_encActive (c : Byte) : (s.finishFrame c).encActive = false := rfl
@[simp] theorem State.finishFrame_encLen (c : Byte) : (s.finishFrame c).encLen = s.encLen := rfl
@[simp] theorem State.finishFrame_txBuf (c : Byte) : (s.finishFrame c).txBuf = s.txBufWithLenStop.write (3 + s.encLen.toNat) c := rfl
@[simp] theorem State.finishFrame_txReady (c : Byte) : (s.finishFrame c).txReady = true := rfl
@[simp] theorem State.finishFrame_txLen (c : Byte) : (s.finishFrame c).txLen = BitVec.ofNat 16 (4 + s.encLen.toNat) := rfl
@[simp] theorem State.finishFrame_errFlags (c : Byte) : (s.finishFrame c).errFlags = s.errFlags := rfl
@[simp] theorem State.finishFrame_inputs (c : Byte) : (s.finishFrame c).inputs = s.inputs := rfl
@[simp] theorem State.finishFrame_responses (c : Byte) : (s.finishFrame c).responses = s.responses := rfl

/-! ### `takeInput`: the next event -/

@[simp] theorem State.takeInput_par (rest : List Input) : (s.takeInput rest).par = s.par := rfl
@[simp] theorem State.takeInput_rb (rest : List Input) : (s.takeInput rest).rb = s.rb := rfl
@[simp] theorem State.takeInput_crcAcc (rest : List Input) : (s.takeInput rest).crcAcc = s.crcAcc := rfl
@[simp] theorem State.takeInput_rxValid (rest : List Input) : (s.takeInput rest).rxValid = s.rxValid := rfl
@[simp] theorem State.takeInput_rxLen (rest : List Input) : (s.takeInput rest).rxLen = s.rxLen := rfl
@[simp] theorem State.takeInput_rxPay (rest : List Input) : (s.takeInput rest).rxPay = s.rxPay := rfl
@[simp] theorem State.takeInput_decCur (rest : List Input) : (s.takeInput rest).decCur = s.decCur := rfl
@[simp] theorem State.takeInput_encActive (rest : List Input) : (s.takeInput rest).encActive = s.encActive := rfl
@[simp] theorem State.takeInput_encLen (rest : List Input) : (s.takeInput rest).encLen = s.encLen := rfl
@[simp] theorem State.takeInput_txBuf (rest : List Input) : (s.takeInput rest).txBuf = s.txBuf := rfl
@[simp] theorem State.takeInput_txReady (rest : List Input) : (s.takeInput rest).txReady = s.txReady := rfl
@[simp] theorem State.takeInput_txLen (rest : List Input) : (s.takeInput rest).txLen = s.txLen := rfl
@[simp] theorem State.takeInput_errFlags (rest : List Input) : (s.takeInput rest).errFlags = s.errFlags := rfl
@[simp] theorem State.takeInput_inputs (rest : List Input) : (s.takeInput rest).inputs = rest := rfl
@[simp] theorem State.takeInput_responses (rest : List Input) : (s.takeInput rest).responses = s.responses := rfl

/-! ### `applyReset`: reset (70_reset_and_hazards.md R250) -/

@[simp] theorem State.applyReset_par (rest : List Input) : (s.applyReset rest).par = s.par := rfl
@[simp] theorem State.applyReset_rb (rest : List Input) : (s.applyReset rest).rb = [] := rfl
@[simp] theorem State.applyReset_crcAcc (rest : List Input) : (s.applyReset rest).crcAcc = 0 := rfl
@[simp] theorem State.applyReset_rxValid (rest : List Input) : (s.applyReset rest).rxValid = false := rfl
@[simp] theorem State.applyReset_rxLen (rest : List Input) : (s.applyReset rest).rxLen = 0 := rfl
@[simp] theorem State.applyReset_rxPay (rest : List Input) : (s.applyReset rest).rxPay = [] := rfl
@[simp] theorem State.applyReset_decCur (rest : List Input) : (s.applyReset rest).decCur = 0 := rfl
@[simp] theorem State.applyReset_encActive (rest : List Input) : (s.applyReset rest).encActive = false := rfl
@[simp] theorem State.applyReset_encLen (rest : List Input) : (s.applyReset rest).encLen = 0 := rfl
@[simp] theorem State.applyReset_txBuf (rest : List Input) : (s.applyReset rest).txBuf = [] := rfl
@[simp] theorem State.applyReset_txReady (rest : List Input) : (s.applyReset rest).txReady = false := rfl
@[simp] theorem State.applyReset_txLen (rest : List Input) : (s.applyReset rest).txLen = 0 := rfl
@[simp] theorem State.applyReset_errFlags (rest : List Input) : (s.applyReset rest).errFlags = 0 := rfl
@[simp] theorem State.applyReset_inputs (rest : List Input) : (s.applyReset rest).inputs = rest := rfl
@[simp] theorem State.applyReset_responses (rest : List Input) : (s.applyReset rest).responses = [] := rfl

end Sys2Proof.Machine
end

