-- ==== Sys2Proof/Laws/Ops.lean ====
section
/-! SUPPORT. What each shared operation can do, said once: how a command ends, the field commands of the encoder and of the decoder,
and what EXTRACT finds at the front of the ring buffer. -/

namespace Sys2Proof.Machine

/-! ### How a command ends -/

@[simp] theorem finish_eq_next {st : Status} {r : Word} {s t : State} : finish st r s = .next t ↔ t = s.respond st r := by
  simp [finish, eq_comm]

@[simp] theorem raise_eq_next {e : ContractError} {s t : State} : raise e s = .next t ↔ t = s.raiseErr e := by
  simp [raise, eq_comm]

@[simp] theorem finish_ne_fault {st : Status} {r : Word} {s : State} {f : Fault} : finish st r s ≠ .fault f := by
  simp [finish]

@[simp] theorem raise_ne_fault {e : ContractError} {s : State} {f : Fault} : raise e s ≠ .fault f := by simp [raise]

@[simp] theorem finish_ne_refused {st : Status} {r : Word} {s : State} {f : Refusal} : finish st r s ≠ .refused f := by
  simp [finish]

@[simp] theorem raise_ne_refused {e : ContractError} {s : State} {f : Refusal} : raise e s ≠ .refused f := by simp [raise]

/-! ### Field commands -/

/-- Everything a field command of the encoder can do (44_encoder.md R171 to R173). -/
theorem encodeField_next {n : Nat} {v : Word} {s t : State} (h : encodeField n v s = .next t) :
    (s.encActive = false ∧ t = s.raiseErr .seq) ∨
    (s.encActive = true ∧ 255 < s.encLen.toNat + n ∧ t = s.raiseErr .encOvf) ∨
    (s.encActive = true ∧ s.encLen.toNat + n ≤ 255 ∧ t = (s.putField n v).respond .ok 0) := by
  unfold encodeField at h
  split_ifs at h with h1 h2
  · exact .inl ⟨h1, by simpa using h⟩
  · exact .inr (.inl ⟨by simpa using h1, h2, by simpa using h⟩)
  · exact .inr (.inr ⟨by simpa using h1, by omega, by simpa using h⟩)

/-- A field that fits is appended (44_encoder.md R171 to R173). -/
theorem encodeField_ok {n : Nat} {v : Word} {s : State} (ha : s.encActive = true) (hn : s.encLen.toNat + n ≤ 255) :
    encodeField n v s = .next ((s.putField n v).respond .ok 0) := by
  simp [encodeField, ha, show ¬ 255 < s.encLen.toNat + n by omega]

/-- What the payload store reads as after a field is appended. -/
theorem read_putField (n : Nat) (v : Word) (s : State) (a : Nat) :
    (s.putField n v).txBuf.read a =
      if s.fieldIndex ≤ a ∧ a < s.fieldIndex + n then (leBytes n v)[a - s.fieldIndex]? else s.txBuf.read a := by
  rw [State.putField_txBuf, Memory.memWrite, Memory.read_writeBytes, leBytes_length]

/-- What ENC_LEN is after a field is appended. -/
theorem encLen_putField {n : Nat} {v : Word} {s : State} (h : s.encLen.toNat + n ≤ 255) :
    (s.putField n v).encLen.toNat = s.encLen.toNat + n := by
  rw [State.putField_encLen, BitVec.toNat_add, BitVec.toNat_ofNat]
  omega

/-- Everything a field command of the decoder can do (45_decoder.md R193 to R195). -/
theorem decodeField_next {n : Nat} {s t : State} (h : decodeField n s = .next t) :
    ((s.rxValid = false ∨ s.decCur = 0) ∧ t = s.raiseErr .seq) ∨
    (s.rxValid = true ∧ s.decCur ≠ 0 ∧ s.rxLen.toNat < s.decCur.toNat + n ∧ t = s.raiseErr .decShort) ∨
    (s.rxValid = true ∧ s.decCur ≠ 0 ∧ s.decCur.toNat + n ≤ s.rxLen.toNat ∧
      ∃ v, s.rxPay.memRead s.decCur.toNat n = some v ∧
        t = (s.setDecCur (s.decCur + BitVec.ofNat 8 n)).respond .ok v) := by
  unfold decodeField at h
  split_ifs at h with h1 h2
  · exact .inl ⟨h1, by simpa using h⟩
  · rw [not_or] at h1
    exact .inr (.inl ⟨by simpa using h1.1, h1.2, h2, by simpa using h⟩)
  · rw [not_or] at h1
    split at h
    · cases h
    · rename_i v hv
      exact .inr (.inr ⟨by simpa using h1.1, h1.2, by omega, v, hv, by simpa using h⟩)

/-- A field that is there is read (45_decoder.md R193 to R195). -/
theorem decodeField_ok {n : Nat} {s : State} {v : Word} (hv : s.rxValid = true) (hc : s.decCur ≠ 0)
    (hn : s.decCur.toNat + n ≤ s.rxLen.toNat) (hr : s.rxPay.memRead s.decCur.toNat n = some v) :
    decodeField n s = .next ((s.setDecCur (s.decCur + BitVec.ofNat 8 n)).respond .ok v) := by
  rw [decodeField, if_neg (by simp only [hv, hc, not_or]; decide), if_neg (by omega), hr]
  rfl

/-- The cursor does not wrap (45_decoder.md R196). -/
theorem decCur_advance {c l : Byte} {n : Nat} (h : c.toNat + n ≤ l.toNat) : (c + BitVec.ofNat 8 n).toNat = c.toNat + n := by
  rw [BitVec.toNat_add, BitVec.toNat_ofNat]
  have := l.isLt
  omega

/-! ### The frame parser -/

/-- The noise is a run of bytes that are not START, and what is left starts with START or is empty (43_frame_parser.md R141). -/
theorem dropNoise_spec (start : Byte) (rb : List Byte) :
    ∃ noise, rb = noise ++ dropNoise start rb ∧ (∀ b ∈ noise, b ≠ start) ∧
      (dropNoise start rb = [] ∨ ∃ tail, dropNoise start rb = start :: tail) := by
  induction rb with
  | nil => exact ⟨[], rfl, by simp, .inl rfl⟩
  | cons b rb ih =>
    by_cases hb : b = start
    · subst hb
      exact ⟨[], by simp [dropNoise], by simp, .inr ⟨rb, by simp [dropNoise]⟩⟩
    · obtain ⟨noise, h1, h2, h3⟩ := ih
      have hd : dropNoise start (b :: rb) = dropNoise start rb := by simp [dropNoise, hb]
      refine ⟨b :: noise, by rw [hd, List.cons_append, ← h1], ?_, by rw [hd]; exact h3⟩
      intro x hx
      rcases List.mem_cons.1 hx with rfl | hx
      · exact hb
      · exact h2 x hx

/-- Discarding the noise of `noise ++ rest` leaves `rest`. -/
theorem dropNoise_append {start : Byte} {noise rest : List Byte} (hn : ∀ b ∈ noise, b ≠ start)
    (hr : rest = [] ∨ ∃ tail, rest = start :: tail) : dropNoise start (noise ++ rest) = rest := by
  induction noise with
  | nil =>
    rcases hr with rfl | ⟨tail, rfl⟩ <;> simp [dropNoise]
  | cons b noise ih =>
    have hb : b ≠ start := hn b (by simp)
    have := ih fun x hx => hn x (by simp [hx])
    simpa [dropNoise, hb] using this

/-- Steps 3 and 5: the candidate waits for more bytes (43_frame_parser.md R142, R143). -/
theorem candidate_of_short {stop a l : Byte} {tail : List Byte} (h : tail.length + 2 < 4 + l.toNat) :
    candidate stop (a :: l :: tail) = .waiting := by
  simp [candidate, show tail.length + 1 + 1 < 4 + l.toNat by omega]

/-- Steps 6 to 9 on a candidate that is all there: STOP is compared at offset `2 + L`, then the CRC8 at offset `3 + L`
(43_frame_parser.md R144 to R146). -/
theorem candidate_of_complete {stop a l x c : Byte} {p tail : List Byte} (h : p.length = l.toNat) :
    candidate stop (a :: l :: (p ++ x :: c :: tail)) =
      if x = stop then (if c = crc8 p then .frame l p else .badCrc l p) else .wrongStop := by
  have hp : candidatePayload l (a :: l :: (p ++ x :: c :: tail)) = p := by simp [candidatePayload, ← h]
  have h2 : (a :: l :: (p ++ x :: c :: tail))[2 + l.toNat]? = some x := by
    rw [show 2 + l.toNat = p.length + 1 + 1 by omega]; simp
  have h3 : (a :: l :: (p ++ x :: c :: tail))[3 + l.toNat]? = some c := by
    rw [show 3 + l.toNat = (p.length + 1) + 1 + 1 by omega]; simp
  have h4 : ¬ (a :: l :: (p ++ x :: c :: tail)).length < 4 + l.toNat := by simp; omega
  rw [candidate, if_neg h4, h2, h3, hp]
  simp only [Option.some.injEq]

/-- A list that starts with two bytes and is long enough holds a complete candidate. -/
theorem complete_of_length {l : Byte} {tail : List Byte} (h : 4 + l.toNat ≤ tail.length + 2) :
    ∃ p x c tail', tail = p ++ x :: c :: tail' ∧ p.length = l.toNat := by
  have h1 : l.toNat < tail.length := by omega
  have h2 : l.toNat + 1 < tail.length := by omega
  refine ⟨tail.take l.toNat, tail[l.toNat], tail[l.toNat + 1], tail.drop (l.toNat + 2), ?_, by simp; omega⟩
  rw [← List.drop_eq_getElem_cons h2, ← List.drop_eq_getElem_cons h1, List.take_append_drop]

/-- Everything EXTRACT can find after the noise: fewer than two bytes, too few bytes, or a complete candidate. -/
theorem rb_cases (rb : List Byte) :
    rb = [] ∨ (∃ a, rb = [a]) ∨ (∃ a l tail, rb = a :: l :: tail ∧ tail.length + 2 < 4 + l.toNat) ∨
      ∃ a l p x c tail, rb = a :: l :: (p ++ x :: c :: tail) ∧ p.length = l.toNat := by
  match rb with
  | [] => exact .inl rfl
  | [a] => exact .inr (.inl ⟨a, rfl⟩)
  | a :: l :: tail =>
    by_cases h : tail.length + 2 < 4 + l.toNat
    · exact .inr (.inr (.inl ⟨a, l, tail, rfl, h⟩))
    · obtain ⟨p, x, c, tail', rfl, hp⟩ := complete_of_length (l := l) (tail := tail) (by omega)
      exact .inr (.inr (.inr ⟨a, l, p, x, c, tail', rfl, hp⟩))

/-- EXTRACT never stops (43_frame_parser.md R153). -/
theorem extractCandidate_completes (s : State) : ∃ t, extractCandidate s = .next t := by
  unfold extractCandidate
  split <;> exact ⟨_, rfl⟩

end Sys2Proof.Machine
end

