-- ==== Sys2Proof/Laws/Exec.lean ====
section
/-! SUPPORT. What exec and step can do, said once: either a contract error, or one of the outcomes that `Performs` lists. -/

namespace Sys2Proof.Machine

/-- `Performs i s st r u`: the command `i` ends in the state `u` with the response `st`, `r` still to be given, and no contract
error. -/
inductive Performs : Instr → State → Status → Word → State → Prop where
  | pushFull {b : Byte} {s : State} (h : s.count = s.cap) : Performs (.push b) s .full 0 s
  | push {b : Byte} {s : State} (h : s.count ≠ s.cap) : Performs (.push b) s .ok 0 (s.append b)
  | popEmpty {s : State} (h : s.rb = []) : Performs .pop s .empty 0 s
  | pop {s : State} {v : Byte} {tail : List Byte} (h : s.rb = v :: tail) :
      Performs .pop s .ok (byteResult v) (s.dropFront 1)
  | peek {i : Half} {s : State} {b : Byte} (h : s.rb[indexOperand i]? = some b) : Performs (.peek i) s .ok (byteResult b) s
  | size {s : State} : Performs .size s .ok (lengthResult s.count) s
  | isEmpty {s : State} : Performs .isEmpty s .ok (flagResult (s.count == 0)) s
  | clear {s : State} : Performs .clear s .ok 0 (s.setRb [])
  | extractWaiting {s : State} (h : candidate s.par.stop (dropNoise s.par.start s.rb) = .waiting) :
      Performs .extract s .noFrame 0 (s.endRxView.setRb (dropNoise s.par.start s.rb))
  | extractWrongStop {s : State} (h : candidate s.par.stop (dropNoise s.par.start s.rb) = .wrongStop) :
      Performs .extract s .noFrame 0 ((s.endRxView.setRb (dropNoise s.par.start s.rb)).dropFront 1)
  | extractBadCrc {s : State} {l : Byte} {p : List Byte}
      (h : candidate s.par.stop (dropNoise s.par.start s.rb) = .badCrc l p) :
      Performs .extract s .noFrame 0
        (((s.endRxView.setRb (dropNoise s.par.start s.rb)).copyPayload l p).dropFront 1)
  | extractFrame {s : State} {l : Byte} {p : List Byte}
      (h : candidate s.par.stop (dropNoise s.par.start s.rb) = .frame l p) :
      Performs .extract s .frame (byteResult l)
        (((s.endRxView.setRb (dropNoise s.par.start s.rb)).copyPayload l p).dropFront (4 + l.toNat)).openRxView
  | crcClr {s : State} : Performs .crcClr s .ok 0 (s.setCrcAcc 0x00)
  | crcUpd {b : Byte} {s : State} : Performs (.crcUpd b) s .ok 0 (s.setCrcAcc (crc8Step s.crcAcc b))
  | crcRd {s : State} : Performs .crcRd s .ok (byteResult s.crcAcc) s
  | encBegin {c : Byte} {s : State} : Performs (.encBegin c) s .ok 0 (s.beginEncode c)
  | encU8 {b : Byte} {s : State} (ha : s.encActive = true) (hn : s.encLen.toNat + 1 ≤ 255) :
      Performs (.encU8 b) s .ok 0 (s.putField 1 (byteValue b))
  | encI16 {h : Half} {s : State} (ha : s.encActive = true) (hn : s.encLen.toNat + 2 ≤ 255) :
      Performs (.encI16 h) s .ok 0 (s.putField 2 (halfValue h))
  | encF32 {w : Word} {s : State} (ha : s.encActive = true) (hn : s.encLen.toNat + 4 ≤ 255) :
      Performs (.encF32 w) s .ok 0 (s.putField 4 w)
  | encEnd {s : State} {p : List Byte} (ha : s.encActive = true)
      (hp : s.txBufWithLenStop.readBytes 2 s.encLen.toNat = some p) :
      Performs .encEnd s .ok (lengthResult (4 + s.encLen.toNat)) (s.finishFrame (crc8 p))
  | txLen {s : State} (h : s.txReady = true) : Performs .txLen s .ok (lengthResult s.txLen.toNat) s
  | txRd {i : Half} {s : State} {b : Byte} (h : s.txReady = true) (hi : indexOperand i < s.txLen.toNat)
      (hb : s.txBuf.read (indexOperand i) = some b) : Performs (.txRd i) s .ok (byteResult b) s
  | rxLen {s : State} (h : s.rxValid = true) : Performs .rxLen s .ok (lengthResult s.rxLen.toNat) s
  | rxRd {i : Half} {s : State} {b : Byte} (h : s.rxValid = true) (hi : indexOperand i < s.rxLen.toNat)
      (hb : s.rxPay.read (indexOperand i) = some b) : Performs (.rxRd i) s .ok (byteResult b) s
  | decBegin {s : State} {b : Byte} (h : s.rxValid = true) (hl : 1 ≤ s.rxLen.toNat) (hb : s.rxPay.read 0 = some b) :
      Performs .decBegin s .ok (byteResult b) (s.setDecCur 1)
  | decU8 {s : State} {v : Word} (h : s.rxValid = true) (hc : s.decCur ≠ 0) (hn : s.decCur.toNat + 1 ≤ s.rxLen.toNat)
      (hv : s.rxPay.memRead s.decCur.toNat 1 = some v) :
      Performs .decU8 s .ok v (s.setDecCur (s.decCur + BitVec.ofNat 8 1))
  | decI16 {s : State} {v : Word} (h : s.rxValid = true) (hc : s.decCur ≠ 0) (hn : s.decCur.toNat + 2 ≤ s.rxLen.toNat)
      (hv : s.rxPay.memRead s.decCur.toNat 2 = some v) :
      Performs .decI16 s .ok v (s.setDecCur (s.decCur + BitVec.ofNat 8 2))
  | decF32 {s : State} {v : Word} (h : s.rxValid = true) (hc : s.decCur ≠ 0) (hn : s.decCur.toNat + 4 ≤ s.rxLen.toNat)
      (hv : s.rxPay.memRead s.decCur.toNat 4 = some v) :
      Performs .decF32 s .ok v (s.setDecCur (s.decCur + BitVec.ofNat 8 4))
  | errRd {s : State} : Performs .errRd s .ok (byteResult s.errFlagsRead) s

/-- Everything a command can do: a contract error that changes nothing else, or an outcome that `Performs` lists. -/
theorem exec_next {i : Instr} {s t : State} (h : exec i s = .next t) :
    (∃ e, t = s.raiseErr e) ∨ ∃ st r u, Performs i s st r u ∧ t = u.respond st r := by
  cases i with
  | push b =>
    simp only [exec, execPush] at h
    split_ifs at h with hc <;> simp only [finish_eq_next] at h
    · exact .inr ⟨_, _, _, .pushFull hc, h⟩
    · exact .inr ⟨_, _, _, .push hc, h⟩
  | pop =>
    simp only [exec, execPop] at h
    split at h <;> simp only [finish_eq_next] at h
    · rename_i hr; exact .inr ⟨_, _, _, .popEmpty hr, h⟩
    · rename_i hr; exact .inr ⟨_, _, _, .pop hr, h⟩
  | peek i =>
    simp only [exec, execPeek] at h
    split at h <;> simp only [finish_eq_next, raise_eq_next] at h
    · exact .inl ⟨_, h⟩
    · rename_i hb; exact .inr ⟨_, _, _, .peek hb, h⟩
  | size => exact .inr ⟨_, _, _, .size, finish_eq_next.1 h⟩
  | isEmpty => exact .inr ⟨_, _, _, .isEmpty, finish_eq_next.1 h⟩
  | clear => exact .inr ⟨_, _, _, .clear, finish_eq_next.1 h⟩
  | extract =>
    simp only [exec, execExtract, extractCandidate, State.setRb_par, State.endRxView_par, State.setRb_rb] at h
    split at h <;> rename_i hc <;> simp only [finish_eq_next] at h
    · exact .inr ⟨_, _, _, .extractWaiting hc, h⟩
    · exact .inr ⟨_, _, _, .extractWrongStop hc, h⟩
    · exact .inr ⟨_, _, _, .extractBadCrc hc, h⟩
    · exact .inr ⟨_, _, _, .extractFrame hc, h⟩
  | crcClr => exact .inr ⟨_, _, _, .crcClr, finish_eq_next.1 h⟩
  | crcUpd b => exact .inr ⟨_, _, _, .crcUpd, finish_eq_next.1 h⟩
  | crcRd => exact .inr ⟨_, _, _, .crcRd, finish_eq_next.1 h⟩
  | encBegin c => exact .inr ⟨_, _, _, .encBegin, finish_eq_next.1 h⟩
  | encU8 b =>
    rcases encodeField_next h with ⟨-, ht⟩ | ⟨-, -, ht⟩ | ⟨ha, hn, ht⟩
    · exact .inl ⟨_, ht⟩
    · exact .inl ⟨_, ht⟩
    · exact .inr ⟨_, _, _, .encU8 ha hn, ht⟩
  | encI16 b =>
    rcases encodeField_next h with ⟨-, ht⟩ | ⟨-, -, ht⟩ | ⟨ha, hn, ht⟩
    · exact .inl ⟨_, ht⟩
    · exact .inl ⟨_, ht⟩
    · exact .inr ⟨_, _, _, .encI16 ha hn, ht⟩
  | encF32 b =>
    rcases encodeField_next h with ⟨-, ht⟩ | ⟨-, -, ht⟩ | ⟨ha, hn, ht⟩
    · exact .inl ⟨_, ht⟩
    · exact .inl ⟨_, ht⟩
    · exact .inr ⟨_, _, _, .encF32 ha hn, ht⟩
  | encEnd =>
    simp only [exec, execEncEnd] at h
    split_ifs at h with ha
    · exact .inl ⟨_, raise_eq_next.1 h⟩
    · split at h
      · cases h
      · rename_i hp; exact .inr ⟨_, _, _, .encEnd (by simpa using ha) hp, finish_eq_next.1 h⟩
  | txLen =>
    simp only [exec, execTxLen] at h
    split_ifs at h with ha
    · exact .inl ⟨_, raise_eq_next.1 h⟩
    · exact .inr ⟨_, _, _, .txLen (by simpa using ha), finish_eq_next.1 h⟩
  | txRd i =>
    simp only [exec, execTxRd] at h
    split_ifs at h with ha hi
    · exact .inl ⟨_, raise_eq_next.1 h⟩
    · exact .inl ⟨_, raise_eq_next.1 h⟩
    · split at h
      · cases h
      · rename_i hb; exact .inr ⟨_, _, _, .txRd (by simpa using ha) (by omega) hb, finish_eq_next.1 h⟩
  | rxLen =>
    simp only [exec, execRxLen] at h
    split_ifs at h with ha
    · exact .inl ⟨_, raise_eq_next.1 h⟩
    · exact .inr ⟨_, _, _, .rxLen (by simpa using ha), finish_eq_next.1 h⟩
  | rxRd i =>
    simp only [exec, execRxRd] at h
    split_ifs at h with ha hi
    · exact .inl ⟨_, raise_eq_next.1 h⟩
    · exact .inl ⟨_, raise_eq_next.1 h⟩
    · split at h
      · cases h
      · rename_i hb; exact .inr ⟨_, _, _, .rxRd (by simpa using ha) (by omega) hb, finish_eq_next.1 h⟩
  | decBegin =>
    simp only [exec, execDecBegin] at h
    split_ifs at h with ha hi
    · exact .inl ⟨_, raise_eq_next.1 h⟩
    · exact .inl ⟨_, raise_eq_next.1 h⟩
    · split at h
      · cases h
      · rename_i hb; exact .inr ⟨_, _, _, .decBegin (by simpa using ha) (by omega) hb, finish_eq_next.1 h⟩
  | decU8 =>
    rcases decodeField_next h with ⟨-, ht⟩ | ⟨-, -, -, ht⟩ | ⟨hv, hc, hn, v, hr, ht⟩
    · exact .inl ⟨_, ht⟩
    · exact .inl ⟨_, ht⟩
    · exact .inr ⟨_, _, _, .decU8 hv hc hn hr, ht⟩
  | decI16 =>
    rcases decodeField_next h with ⟨-, ht⟩ | ⟨-, -, -, ht⟩ | ⟨hv, hc, hn, v, hr, ht⟩
    · exact .inl ⟨_, ht⟩
    · exact .inl ⟨_, ht⟩
    · exact .inr ⟨_, _, _, .decI16 hv hc hn hr, ht⟩
  | decF32 =>
    rcases decodeField_next h with ⟨-, ht⟩ | ⟨-, -, -, ht⟩ | ⟨hv, hc, hn, v, hr, ht⟩
    · exact .inl ⟨_, ht⟩
    · exact .inl ⟨_, ht⟩
    · exact .inr ⟨_, _, _, .decF32 hv hc hn hr, ht⟩
  | errRd => exact .inr ⟨_, _, _, .errRd, finish_eq_next.1 h⟩

/-- No command that is performed ends in a contract error. -/
theorem Performs.not_error {i : Instr} {s u : State} {st : Status} {r : Word} (h : Performs i s st r u) (e : ContractError) :
    st ≠ .error e := by
  cases h <;> simp

/-- What no command that is performed touches. -/
theorem Performs.same {i : Instr} {s u : State} {st : Status} {r : Word} (h : Performs i s st r u) :
    u.par = s.par ∧ u.errFlags = s.errFlags ∧ u.inputs = s.inputs ∧ u.responses = s.responses := by
  cases h <;> exact ⟨rfl, rfl, rfl, rfl⟩

/-- Everything a step can do: idle, a platform reset, a word that is no well-formed command, or a command. -/
theorem step_next {s t : State} (h : step s = .next t) :
    (s.inputs = [] ∧ t = s) ∨
    (∃ rest, s.inputs = .reset :: rest ∧ t = s.applyReset rest) ∨
    (∃ w rest e, s.inputs = .command w :: rest ∧ decode w = .error e ∧ t = (s.takeInput rest).raiseErr e) ∨
    ∃ w rest i, s.inputs = .command w :: rest ∧ decode w = .ok i ∧ exec i (s.takeInput rest) = .next t := by
  unfold step at h
  split at h
  · rename_i hi; exact .inl ⟨hi, (by cases h; rfl)⟩
  · rename_i rest hi; exact .inr (.inl ⟨rest, hi, (by cases h; rfl)⟩)
  · rename_i w rest hi
    split at h
    · rename_i e he; exact .inr (.inr (.inl ⟨w, rest, e, hi, he, raise_eq_next.1 h⟩))
    · rename_i i hd; exact .inr (.inr (.inr ⟨w, rest, i, hi, hd, h⟩))

/-- A step on a presented command either signals a contract error, of its decoding or of its performance, or performs it. -/
theorem step_command_next {s t : State} {w : CommandWord} {rest : List Input} (hi : s.inputs = .command w :: rest)
    (h : step s = .next t) :
    (∃ e, t = (s.takeInput rest).raiseErr e) ∨
      ∃ i st r u, decode w = .ok i ∧ Performs i (s.takeInput rest) st r u ∧ t = u.respond st r := by
  rcases step_next h with ⟨h0, -⟩ | ⟨_, h0, -⟩ | ⟨w', rest', e, h0, -, ht⟩ | ⟨w', rest', i, h0, hd, hx⟩
  · rw [hi] at h0; cases h0
  · rw [hi] at h0; cases h0
  · rw [hi] at h0; cases h0; exact .inl ⟨e, ht⟩
  · rw [hi] at h0; cases h0
    rcases exec_next hx with he | ⟨st, r, u, hp, ht⟩
    · exact .inl he
    · exact .inr ⟨i, st, r, u, hd, hp, ht⟩

end Sys2Proof.Machine
end

