-- ==== Sys2Proof/Laws/PerInstr.lean ====
section
/-! SUPPORT. Per-instruction facts about the syntax: the word of every command is well formed (spec/30_encoding.md R73, R76). -/

namespace Sys2Proof

/-- The opcode field of `OP << 32 | ARG` is OP (30_encoding.md R71). -/
theorem opField_cat (op : Byte) (arg : Word) : opField (op.setWidth 40 <<< 32 ||| arg.setWidth 40) = op := by
  unfold opField
  ext i hi
  rw [BitVec.getElem_extractLsb', BitVec.getLsbD_or, BitVec.getLsbD_shiftLeft, BitVec.getLsbD_setWidth,
    BitVec.getLsbD_setWidth, BitVec.getLsbD_of_ge arg _ (by omega), show 32 + i - 32 = i by omega,
    BitVec.getLsbD_eq_getElem hi]
  simp [show 32 + i < 40 by omega, show i < 40 by omega]

/-- The argument field of `OP << 32 | ARG` is ARG (30_encoding.md R71). -/
theorem argField_cat (op : Byte) (arg : Word) : argField (op.setWidth 40 <<< 32 ||| arg.setWidth 40) = arg := by
  unfold argField
  ext i hi
  rw [BitVec.getElem_extractLsb', BitVec.getLsbD_or, BitVec.getLsbD_shiftLeft, BitVec.getLsbD_setWidth,
    BitVec.getLsbD_setWidth]
  simp [hi]
  omega

@[simp] theorem opField_encode (i : Instr) : opField (encode i) = i.opcode := opField_cat _ _

@[simp] theorem argField_encode (i : Instr) : argField (encode i) = i.arg := argField_cat _ _

/-- A value of `k` bits has no bit in common with the upper `32 - k` bits. -/
theorem and_upper_of_lt {a m : Word} {k : Nat} (ha : a.toNat < 2 ^ k) (hm : ∀ i, i < k → m.getLsbD i = false) :
    a &&& m = 0 := by
  ext i hi
  by_cases h : i < k
  · have := hm i h
    rw [BitVec.getLsbD_eq_getElem hi] at this
    simp [this]
  · have : a.toNat.testBit i = false :=
      Nat.testBit_lt_two_pow (lt_of_lt_of_le ha (Nat.pow_le_pow_right (by omega) (by omega)))
    have : a[i] = false := by rwa [← BitVec.getLsbD_eq_getElem hi, BitVec.getLsbD]
    simp [this]

/-- A form B operand has no reserved bit (30_encoding.md R73). -/
theorem byteArg_unreserved (b : Byte) : (b.setWidth 32 : Word) &&& ~~~ usedMask .b = 0 :=
  and_upper_of_lt (k := 8) (by have := b.isLt; simp; omega) (by decide)

/-- A form H operand has no reserved bit (30_encoding.md R73). -/
theorem halfArg_unreserved (h : Half) : (h.setWidth 32 : Word) &&& ~~~ usedMask .h = 0 :=
  and_upper_of_lt (k := 16) (by have := h.isLt; simp; omega) (by decide)

/-- Form W has no reserved bit (30_encoding.md R73). -/
theorem wordArg_unreserved (w : Word) : w &&& ~~~ usedMask .w = 0 := by
  rw [show ~~~ usedMask .w = 0 by decide]; simp

namespace Laws.EncodedWordWellFormed

/-- The word of a command has an assigned opcode and no reserved bit (30_encoding.md R76). -/
def Statement (i : Instr) : Prop := wordWellFormed (encode i) = true

/-- A command whose opcode selects a row whose form leaves its argument unreserved has a well-formed word. -/
theorem of_row {i : Instr} {r : OpcodeRow} (hr : rowOf i.opcode = some r) (ha : i.arg &&& ~~~ usedMask r.form = 0) :
    Statement i := by
  unfold Statement wordWellFormed
  rw [opField_encode, argField_encode, hr]
  simpa using ha

theorem push (x : Byte) : Statement (.push x) := of_row rfl (byteArg_unreserved x)
theorem pop : Statement .pop := of_row rfl (by decide)
theorem peek (x : Half) : Statement (.peek x) := of_row rfl (halfArg_unreserved x)
theorem size : Statement .size := of_row rfl (by decide)
theorem isEmpty : Statement .isEmpty := of_row rfl (by decide)
theorem clear : Statement .clear := of_row rfl (by decide)
theorem extract : Statement .extract := of_row rfl (by decide)
theorem crcClr : Statement .crcClr := of_row rfl (by decide)
theorem crcUpd (x : Byte) : Statement (.crcUpd x) := of_row rfl (byteArg_unreserved x)
theorem crcRd : Statement .crcRd := of_row rfl (by decide)
theorem encBegin (x : Byte) : Statement (.encBegin x) := of_row rfl (byteArg_unreserved x)
theorem encU8 (x : Byte) : Statement (.encU8 x) := of_row rfl (byteArg_unreserved x)
theorem encI16 (x : Half) : Statement (.encI16 x) := of_row rfl (halfArg_unreserved x)
theorem encF32 (x : Word) : Statement (.encF32 x) := of_row rfl (wordArg_unreserved x)
theorem encEnd : Statement .encEnd := of_row rfl (by decide)
theorem txLen : Statement .txLen := of_row rfl (by decide)
theorem txRd (x : Half) : Statement (.txRd x) := of_row rfl (halfArg_unreserved x)
theorem rxLen : Statement .rxLen := of_row rfl (by decide)
theorem rxRd (x : Half) : Statement (.rxRd x) := of_row rfl (halfArg_unreserved x)
theorem decBegin : Statement .decBegin := of_row rfl (by decide)
theorem decU8 : Statement .decU8 := of_row rfl (by decide)
theorem decI16 : Statement .decI16 := of_row rfl (by decide)
theorem decF32 : Statement .decF32 := of_row rfl (by decide)
theorem errRd : Statement .errRd := of_row rfl (by decide)

end Laws.EncodedWordWellFormed

end Sys2Proof
end

