-- ==== Sys2Proof/Tests/Slice0.lean ====
section
/-! SUPPORT. Small tests of one step each, with expected values from the spec, and for every statement with hypotheses a witness that
they can be met. Words and values are those of spec/30_encoding.md R76 and of the vectors of spec/95_test_vectors.md. -/

namespace Sys2Proof.Tests

open Sys2Proof Sys2Proof.Machine

set_option maxRecDepth 8000

/-! ### Helpers -/

/-- Reset with START = 0x3C, STOP = 0x3E and this CAP - 1. -/
def fresh (capPred : Fin 65535) : State := State.resetWith ⟨0x3C, 0x3E, ⟨capPred⟩⟩

/-- CAP = 8 and these bytes in the ring buffer. -/
def holding (bs : List Byte) : State := (fresh 7).setRb bs

/-- A frame of code 0x01 under construction, with ENC_LEN = `n`. -/
def encoding (n : Byte) : State :=
  { fresh 7 with encActive := true, encLen := n, txBuf := [(0, 0x3C), (2, 0x01)] }

/-- The received payload is `[01] || 7F || FE FF || 00 00 80 3F`, with DEC_CUR = `cur`. -/
def receiving (cur : Byte) : State :=
  { fresh 7 with
    rxValid := true, rxLen := 8, decCur := cur
    rxPay := [(0, 0x01), (1, 0x7F), (2, 0xFE), (3, 0xFF), (4, 0x00), (5, 0x00), (6, 0x80), (7, 0x3F)] }

/-- A received view, a complete transmit frame (V-SRC-1) and the same frame in the ring buffer. -/
def busy : State :=
  { receiving 1 with
    rb := [0x3C, 0x02, 0x01, 0x7F, 0x3E, 0x7D]
    encLen := 2, txReady := true, txLen := 6
    txBuf := [(0, 0x3C), (1, 0x02), (2, 0x01), (3, 0x7F), (4, 0x3E), (5, 0x7D)] }

/-- `s` with this word presented next. -/
def given (s : State) (w : CommandWord) : State := s.takeInput [.command w]

/-- The state that a result gives. -/
def after : Result → Option State
  | .next s => some s
  | .fault _ | .refused _ => none

/-- The last response that a result gives. -/
def answer (r : Result) : Option Response := (after r).bind fun s => s.responses.getLast?

/-- The byte of TXBUF that a result leaves at this index. -/
def txByte (r : Result) (a : Nat) : Option Byte := (after r).bind fun s => s.txBuf.read a

/-! ### Decoding: every command's word, from R76 -/

theorem test_decode_ring :
    decode 0x10000000FF = .ok (.push 0xFF) ∧ decode 0x1100000000 = .ok .pop ∧ decode 0x120000FFFE = .ok (.peek 0xFFFE) ∧
    decode 0x1300000000 = .ok .size ∧ decode 0x1400000000 = .ok .isEmpty ∧ decode 0x1500000000 = .ok .clear ∧
    decode 0x2000000000 = .ok .extract := by decide

theorem test_decode_crc :
    decode 0x3000000000 = .ok .crcClr ∧ decode 0x3100000081 = .ok (.crcUpd 0x81) ∧ decode 0x3200000000 = .ok .crcRd := by decide

theorem test_decode_encoder :
    decode 0x4000000001 = .ok (.encBegin 0x01) ∧ decode 0x410000007F = .ok (.encU8 0x7F) ∧
    decode 0x420000FFFE = .ok (.encI16 0xFFFE) ∧ decode 0x433F800000 = .ok (.encF32 0x3F800000) ∧
    decode 0x4400000000 = .ok .encEnd ∧ decode 0x4500000000 = .ok .txLen ∧ decode 0x4600000102 = .ok (.txRd 258) := by decide

theorem test_decode_decoder :
    decode 0x5000000000 = .ok .rxLen ∧ decode 0x51000000FE = .ok (.rxRd 254) ∧ decode 0x5200000000 = .ok .decBegin ∧
    decode 0x5300000000 = .ok .decU8 ∧ decode 0x5400000000 = .ok .decI16 ∧ decode 0x5500000000 = .ok .decF32 ∧
    decode 0x6000000000 = .ok .errRd := by decide

/-- Every assigned opcode decodes with ARG = 0, and gives the command of its row. -/
theorem test_decode_zero_argument :
    ([0x10, 0x11, 0x12, 0x13, 0x14, 0x15, 0x20, 0x30, 0x31, 0x32, 0x40, 0x41, 0x42, 0x43, 0x44, 0x45, 0x46, 0x50, 0x51, 0x52, 0x53,
      0x54, 0x55, 0x60].map fun op : Nat => decodeTableWord 40 (op * 2 ^ 32)) =
    [.push 0, .pop, .peek 0, .size, .isEmpty, .clear, .extract, .crcClr, .crcUpd 0, .crcRd, .encBegin 0, .encU8 0, .encI16 0,
      .encF32 0, .encEnd, .txLen, .txRd 0, .rxLen, .rxRd 0, .decBegin, .decU8, .decI16, .decF32, .errRd].map some := by decide

/-- The two ends of each range of unassigned opcodes (R78). -/
theorem test_decode_illegal :
    ∀ op ∈ [0x00, 0x0F, 0x16, 0x1F, 0x21, 0x2F, 0x33, 0x3F, 0x47, 0x4F, 0x56, 0x5F, 0x61, 0xFF],
      decode (BitVec.ofNat 40 (op * 2 ^ 32 + 0xFFFFFFFF)) = .error .illegal := by decide

/-- The lowest and the highest reserved bit of each form (R73). -/
theorem test_decode_reserved :
    (∀ op ∈ [0x11, 0x13, 0x14, 0x15, 0x20, 0x30, 0x32, 0x44, 0x45, 0x50, 0x52, 0x53, 0x54, 0x55, 0x60], ∀ k ∈ [0, 31],
      decode (BitVec.ofNat 40 (op * 2 ^ 32 + 2 ^ k)) = .error .reserved) ∧
    (∀ op ∈ [0x10, 0x31, 0x40, 0x41], ∀ k ∈ [8, 31], decode (BitVec.ofNat 40 (op * 2 ^ 32 + 2 ^ k)) = .error .reserved) ∧
    (∀ op ∈ [0x12, 0x42, 0x46, 0x51], ∀ k ∈ [16, 31],
      decode (BitVec.ofNat 40 (op * 2 ^ 32 + 2 ^ k)) = .error .reserved) := by decide

/-- Encoding, from the words of R76. -/
theorem test_encode :
    encode (.push 0xAB) = 0x10000000AB ∧ encode (.encI16 0xFFFE) = 0x420000FFFE ∧ encode (.encF32 0x7FC00001) = 0x437FC00001 ∧
    encode .errRd = 0x6000000000 := by decide

/-! ### Well-formedness: each check refuses an ill-formed term -/

theorem test_word_ill_formed :
    wordWellFormed 0x1100000001 = false ∧ wordWellFormed 0x1000000100 = false ∧ wordWellFormed 0x1200010000 = false ∧
    wordWellFormed 0x1600000000 = false ∧ wordWellFormed 0x43FFFFFFFF = true := by decide

theorem test_literal_ill_formed :
    litByteOk ⟨false, true, 0x1FF⟩ = false ∧ litByteOk ⟨true, false, 1⟩ = false ∧ litByteOk ⟨false, false, 255⟩ = true ∧
    litIndexOk ⟨false, false, 65536⟩ = false ∧ litIndexOk ⟨true, false, 1⟩ = false ∧
    litInt16Ok ⟨true, false, 32769⟩ = false ∧ litInt16Ok ⟨false, false, 65536⟩ = false ∧ litInt16Ok ⟨true, false, 32768⟩ = true ∧
    litFloatOk ⟨false, true, 2 ^ 32⟩ = false ∧ litFloatOk ⟨false, false, 1⟩ = false ∧ litFloatOk ⟨true, true, 1⟩ = false := by decide

/-- One field more than each bound of R82. -/
theorem test_pseudo_ill_formed :
    (Pseudo.sendBytes 0 (List.replicate 255 0)).wellFormed = false ∧ (Pseudo.sendInts 0 (List.replicate 128 0)).wellFormed = false ∧
    (Pseudo.sendFloats 0 (List.replicate 64 0)).wellFormed = false ∧
    (Pseudo.sendBytesFloats 0 (List.replicate 251 0) [0]).wellFormed = false ∧ (Pseudo.recvBytes 255).wellFormed = false ∧
    (Pseudo.recvInts 128).wellFormed = false ∧ (Pseudo.recvFloats 64).wellFormed = false ∧
    (Pseudo.recvBytesFloats 251 1).wellFormed = false := by
  simp only [Pseudo.wellFormed, List.length_replicate]; decide

/-! ### Assembly (R81, R82) -/

theorem test_assemble :
    assembleWord "PUSH 0x3C ; START".toList = some 0x100000003C ∧ assembleWord "ENC_I16 -2".toList = some 0x420000FFFE ∧
    assembleWord "CLEAR".toList = some 0x1500000000 ∧ assembleWord "ENC_F32 0x3F800000".toList = some 0x433F800000 ∧
    assembleLine "; nothing".toList = .blank := by decide

theorem test_assemble_refuses :
    assembleLine "PUSH 0x1FF".toList = .refused ∧ assembleLine "PUSH".toList = .refused ∧
    assembleLine "CLEAR 1".toList = .refused ∧ assembleLine "ENC_F32 1".toList = .refused ∧
    assembleLine "JUMP 0".toList = .refused := by decide

theorem test_expand :
    expandPseudo (.sendBytesFloats 0x01 [0x7F] [0x3F800000]) = [.encBegin 0x01, .encU8 0x7F, .encF32 0x3F800000, .encEnd] ∧
    expandPseudo (.recvBytesFloats 1 1) = [.decBegin, .decU8, .decF32] ∧ expandPseudo (.readFrame 2) = [.txLen, .txRd 0, .txRd 1] ∧
    expandPseudo (.feed [0xAA, 0x3C]) = [.push 0xAA, .push 0x3C] := by decide

/-! ### Commands -/

/-- Every opcode with ARG = 0 runs as the first command after reset. -/
theorem test_every_command_runs_at_reset :
    ∀ op ∈ [0x10, 0x11, 0x12, 0x13, 0x14, 0x15, 0x20, 0x30, 0x31, 0x32, 0x40, 0x41, 0x42, 0x43, 0x44, 0x45, 0x46, 0x50, 0x51,
      0x52, 0x53, 0x54, 0x55, 0x60], (after (step (State.reset.withFetchWord 40 (op * 2 ^ 32)))).isSome = true := by decide

theorem test_push_full :
    answer (exec (.push 9) (holding [1, 2, 3, 4, 5, 6, 7, 8])) = some ⟨.full, 0⟩ ∧
    (after (exec (.push 9) (holding [1, 2, 3, 4, 5, 6, 7, 8]))).map State.rb = some [1, 2, 3, 4, 5, 6, 7, 8] := by decide
theorem test_push : (after (exec (.push 0xBB) (holding [0xAA]))).map State.rb = some [0xAA, 0xBB] := by decide
theorem test_pop : answer (exec .pop (holding [0xAA, 0xBB])) = some ⟨.ok, 0xAA⟩ ∧
    (after (exec .pop (holding [0xAA, 0xBB]))).map State.rb = some [0xBB] := by decide
theorem test_pop_empty : answer (exec .pop (holding [])) = some ⟨.empty, 0⟩ := by decide
theorem test_peek : answer (exec (.peek 1) (holding [0xAA, 0xBB])) = some ⟨.ok, 0xBB⟩ ∧
    answer (exec (.peek 2) (holding [0xAA, 0xBB])) = some ⟨.error .range, 0⟩ := by decide
theorem test_size : answer (exec .size (holding [0xAA, 0xBB])) = some ⟨.ok, 2⟩ := by decide
theorem test_isEmpty : answer (exec .isEmpty (holding [])) = some ⟨.ok, 1⟩ ∧
    answer (exec .isEmpty (holding [0])) = some ⟨.ok, 0⟩ := by decide
theorem test_clear : (after (exec .clear (holding [0xAA]))).map State.rb = some [] := by decide

/-- V-SRC-2: the noise before the frame goes, the byte after it stays. -/
theorem test_extract :
    answer (exec .extract (holding [0xAA, 0x3C, 0x02, 0x01, 0x7F, 0x3E, 0x7D, 0xBB])) = some ⟨.frame, 2⟩ ∧
    (after (exec .extract (holding [0xAA, 0x3C, 0x02, 0x01, 0x7F, 0x3E, 0x7D, 0xBB]))).map State.rb = some [0xBB] := by decide
/-- V-SRC-3: a corrupted CRC8 costs the START byte only. -/
theorem test_extract_bad_crc :
    answer (exec .extract (holding [0x3C, 0x02, 0x01, 0x7F, 0x3E, 0x00])) = some ⟨.noFrame, 0⟩ ∧
    (after (exec .extract (holding [0x3C, 0x02, 0x01, 0x7F, 0x3E, 0x00]))).map State.rb =
      some [0x02, 0x01, 0x7F, 0x3E, 0x00] := by decide

/-- 42_crc8.md R122: `crc8("123456789") = 0xA1`, and `crc8(01 7F) = 0x7D` (V-SRC-1). -/
theorem test_crc8 :
    crc8 [0x31, 0x32, 0x33, 0x34, 0x35, 0x36, 0x37, 0x38, 0x39] = 0xA1 ∧ crc8 [0x01, 0x7F] = 0x7D ∧
    crc8 [0x00, 0xF7] = crc8 [0xF7, 0x00] := by decide
theorem test_crcClr : (after (exec .crcClr { fresh 7 with crcAcc := 0x55 })).map State.crcAcc = some 0 := by decide
/-- 42_crc8.md R121: one byte 0x01 from seed 0 gives 0x5E. -/
theorem test_crcUpd : (after (exec (.crcUpd 0x01) (fresh 7))).map State.crcAcc = some 0x5E := by decide
theorem test_crcRd : answer (exec .crcRd { fresh 7 with crcAcc := 0xA1 }) = some ⟨.ok, 0xA1⟩ := by decide

theorem test_encBegin : txByte (exec (.encBegin 0x05) (encoding 9)) 0 = some 0x3C ∧
    txByte (exec (.encBegin 0x05) (encoding 9)) 2 = some 0x05 ∧
    (after (exec (.encBegin 0x05) (encoding 9))).map State.encLen = some 1 := by decide
theorem test_encU8 : txByte (exec (.encU8 0x7F) (encoding 1)) 3 = some 0x7F ∧
    answer (exec (.encU8 0) (encoding 255)) = some ⟨.error .encOvf, 0⟩ := by decide
theorem test_encI16 : txByte (exec (.encI16 0xFFFE) (encoding 1)) 3 = some 0xFE ∧
    txByte (exec (.encI16 0xFFFE) (encoding 1)) 4 = some 0xFF := by decide
theorem test_encF32 : txByte (exec (.encF32 0x3F800000) (encoding 1)) 3 = some 0x00 ∧
    txByte (exec (.encF32 0x3F800000) (encoding 1)) 6 = some 0x3F ∧
    (after (exec (.encF32 0x3F800000) (encoding 1))).map State.encLen = some 5 := by decide
/-- V-SRC-1: the frame of `01 7F` ends in `3E 7D`, six bytes. -/
theorem test_encEnd :
    answer (exec .encEnd ((encoding 1).putField 1 0x7F)) = some ⟨.ok, 6⟩ ∧
    txByte (exec .encEnd ((encoding 1).putField 1 0x7F)) 1 = some 0x02 ∧
    txByte (exec .encEnd ((encoding 1).putField 1 0x7F)) 4 = some 0x3E ∧
    txByte (exec .encEnd ((encoding 1).putField 1 0x7F)) 5 = some 0x7D := by decide
theorem test_encEnd_seq : answer (exec .encEnd (fresh 7)) = some ⟨.error .seq, 0⟩ := by decide
theorem test_txLen : answer (exec .txLen busy) = some ⟨.ok, 6⟩ := by decide
theorem test_txRd : answer (exec (.txRd 5) busy) = some ⟨.ok, 0x7D⟩ ∧
    answer (exec (.txRd 6) busy) = some ⟨.error .range, 0⟩ := by decide

theorem test_rxLen : answer (exec .rxLen busy) = some ⟨.ok, 8⟩ := by decide
theorem test_rxRd : answer (exec (.rxRd 7) busy) = some ⟨.ok, 0x3F⟩ ∧
    answer (exec (.rxRd 8) busy) = some ⟨.error .range, 0⟩ := by decide
theorem test_decBegin : answer (exec .decBegin (receiving 0)) = some ⟨.ok, 0x01⟩ ∧
    (after (exec .decBegin (receiving 5))).map State.decCur = some 1 := by decide
theorem test_decU8 : answer (exec .decU8 (receiving 1)) = some ⟨.ok, 0x7F⟩ ∧
    answer (exec .decU8 (receiving 0)) = some ⟨.error .seq, 0⟩ := by decide
/-- The int16 pattern of -2 is not sign-extended (R75, R197). -/
theorem test_decI16 : answer (exec .decI16 (receiving 2)) = some ⟨.ok, 0xFFFE⟩ ∧
    answer (exec .decI16 (receiving 7)) = some ⟨.error .decShort, 0⟩ := by decide
theorem test_decF32 : answer (exec .decF32 (receiving 4)) = some ⟨.ok, 0x3F800000⟩ ∧
    (after (exec .decF32 (receiving 4))).map State.decCur = some 8 := by decide
theorem test_errRd : answer (exec .errRd { fresh 7 with errFlags := 0xC8 }) = some ⟨.ok, 0x08⟩ := by decide

/-- The response word: STATUS above RESULT (R72). -/
theorem test_responseWord : responseWord ⟨.error .seq, 0⟩ = 0x8300000000 ∧ responseWord ⟨.frame, 2⟩ = 0x0400000002 := by decide

/-! ### Witnesses: the hypotheses of each statement can be met -/

theorem witness_EncodeOfDecode : decode 0x510000FFFF = .ok (.rxRd 0xFFFF) := by decide

theorem witness_DecodeRefuses :
    (0x16FFFFFFFF : CommandWord).toNat = 0x16 * 2 ^ 32 + 0xFFFFFFFF ∧ 0xFFFFFFFF < 2 ^ 32 ∧
    (0x1000000100 : CommandWord).toNat = 0x10 * 2 ^ 32 + 2 ^ 8 := by decide

/-- StepRunsTheDecodedCommand, EveryCommandGivesOneResponse, OtherOutcomesSetNoErrFlag, ParametersNeverChange. -/
theorem witness_step : (given busy 0x1100000000).inputs = .command 0x1100000000 :: [] ∧ decode 0x1100000000 = .ok .pop ∧
    after (step (given busy 0x1100000000)) =
      some { busy with rb := [0x02, 0x01, 0x7F, 0x3E, 0x7D], responses := busy.answered .ok 0x3C } := by decide

/-- UnassignedOpcodeEndsInErrIllegal, ContractErrorHasNoOtherEffect. -/
theorem witness_UnassignedOpcode :
    (given busy 0x16FFFFFFFF).inputs = .command 0x16FFFFFFFF :: [] ∧
    (0x16FFFFFFFF : CommandWord).toNat = 0x16 * 2 ^ 32 + 0xFFFFFFFF ∧
    after (step (given busy 0x16FFFFFFFF)) =
      some { busy with errFlags := 0x01, responses := busy.answered (.error .illegal) 0 } := by decide

theorem witness_ReservedBit :
    (∀ w : CommandWord, (given busy w).inputs = .command w :: []) ∧
    (0x1100000001 : CommandWord).toNat = 0x11 * 2 ^ 32 + 1 ∧ (0x1000000100 : CommandWord).toNat = 0x10 * 2 ^ 32 + 2 ^ 8 ∧
    (0x1200010000 : CommandWord).toNat = 0x12 * 2 ^ 32 + 2 ^ 16 := ⟨fun _ => rfl, by decide⟩

theorem witness_RunPerforms :
    (busy.takeInput [.command (encode .pop), .command (encode .size)]).inputs =
      [Instr.pop, .size].map (fun i => .command (encode i)) ++ [] := by decide

theorem witness_OnlyResetClears :
    ({ busy with errFlags := 0x3F, inputs := [.reset] } : State).inputs = .reset :: [] ∧
    (after (step { busy with errFlags := 0x3F, inputs := [.reset] })).map State.errFlags = some 0 ∧
    (after (step { given busy 0x6000000000 with errFlags := 0x3F })).map State.errFlags = some 0x3F := by decide

/-- ContractErrorsHaveTheirListedCauses: each kind of error is answered. -/
theorem witness_Causes :
    answer (exec .decU8 (receiving 0)) = some ⟨.error .seq, 0⟩ ∧ answer (exec (.rxRd 8) busy) = some ⟨.error .range, 0⟩ ∧
    answer (exec (.encF32 0) (encoding 252)) = some ⟨.error .encOvf, 0⟩ ∧
    answer (exec .decU8 (receiving 8)) = some ⟨.error .decShort, 0⟩ := by decide

theorem witness_ErrFlagsRecord :
    ({ busy with errFlags := 0x09, responses := [⟨.error .seq, 0⟩, ⟨.ok, 1⟩, ⟨.error .illegal, 0⟩] } : State).ErrFlagsRecord ∧
    (after (step (given busy 0x5000000000))).isSome = true := by
  unfold State.ErrFlagsRecord; decide

/-- PushAppendsOrRejects: a full buffer, and one byte less. -/
theorem witness_Push : (holding [1, 2, 3, 4, 5, 6, 7, 8]).count = (holding []).cap ∧
    (holding [1, 2, 3, 4, 5, 6, 7]).count < (holding [1, 2, 3, 4, 5, 6, 7]).cap := by decide

theorem witness_Pop : (holding []).count = 0 ∧ (holding [7]).rb = 7 :: [] := by decide

/-- PeekReadsALogicalOffset: the last byte, and the first index past it. -/
theorem witness_Peek : (holding [1, 2]).count ≤ (2 : Half).toNat ∧
    (holding [1, 2]).rb = [1] ++ 2 :: [] ∧ ([1] : List Byte).length = (1 : Half).toNat := by decide

/-- StreamOrderIsFirstInFirstOut: exactly as many bytes as fit. -/
theorem witness_Fifo : (holding []).count + ([1, 2, 3, 4, 5, 6, 7, 8] : List Byte).length ≤ (holding []).cap ∧ (holding []).rb = [] := by
  decide

theorem witness_Crc : ([0x31, 0x32] : List Byte).length = ([0x00, 0xFF] : List Byte).length ∧ (0x00 : Byte) ≠ 0x01 := by decide

/-- ExtractFollowsTheNineSteps: noise and each of its four cases, with payloads of length 0 and 2. -/
theorem witness_Extract :
    (holding [0xAA, 0x3C, 0x02]).rb = [0xAA] ++ [0x3C, 0x02] ∧ (∀ b ∈ ([0xAA] : List Byte), b ≠ (holding []).par.start) ∧
    waiting 0x3C [0x3C, 0x02] = true ∧ waiting 0x3C [0x3C, 0x00, 0x3E] = true ∧ waiting 0x3C [] = true ∧
    (holding [0x3C, 0x00, 0x3F, 0x00]).rb = [] ++ 0x3C :: 0x00 :: ([] ++ 0x3F :: 0x00 :: []) ∧ (0x3F : Byte) ≠ (holding []).par.stop ∧
    (holding [0x3C, 0x02, 0x01, 0x7F, 0x3E, 0x00]).rb = [] ++ 0x3C :: 0x02 :: ([0x01, 0x7F] ++ 0x3E :: 0x00 :: []) ∧
    ([0x01, 0x7F] : List Byte).length = (0x02 : Byte).toNat ∧ (0x00 : Byte) ≠ crc8 [0x01, 0x7F] ∧
    (0x7D : Byte) = crc8 [0x01, 0x7F] := by decide

/-- FrameAcceptedExactlyWhenComplete: its right-hand side holds for the frame of V-SRC-1. -/
theorem witness_FrameAccepted :
    [0x3C, 0x02, 0x01, 0x7F, 0x3E, 0x7D] = busy.rb.dropWhile (fun b => b != busy.par.start) ∧
    busy.rb[2 + (0x02 : Byte).toNat]? = some busy.par.stop ∧
    busy.rb[3 + (0x02 : Byte).toNat]? = some (crc8 ((busy.rb.drop 2).take 2)) := by decide

theorem witness_EmptyPayload :
    (holding [0x3C, 0x00, 0x3E, 0x00]).rb = 0x3C :: 0x00 :: 0x3E :: 0x00 :: [] ∧
    (after (exec .extract (holding [0x3C, 0x00, 0x3E, 0x00]))).isSome = true := by decide

theorem witness_ReceiveView :
    (after (exec .extract busy)).map State.rxValid = some true ∧ (after (exec .extract (receiving 1))).map State.rxValid = some false ∧
    (after (exec .pop busy)).map State.rxValid = some true := by decide

/-- CapacityLivelockOnlyBelow259: a full buffer whose candidate needs one byte more than CAP. -/
theorem witness_Capacity :
    (holding [0x3C, 0x05, 1, 2, 3, 4, 5, 6]).count = (holding []).cap ∧ (holding []).cap < 4 + (0x05 : Byte).toNat := by decide

/-- CapacityLivelockOnlyBelow259: a full buffer of the smallest sufficient capacity. -/
theorem witness_Capacity_large :
    259 ≤ ((fresh 258).setRb (List.replicate 259 0x3C)).cap ∧
    ((fresh 258).setRb (List.replicate 259 0x3C)).count = ((fresh 258).setRb (List.replicate 259 0x3C)).cap := by
  simp only [State.count, State.setRb_rb, List.length_replicate]; decide

/-- UnreadablePayloadIsUnobservable: two different states that differ only in what cannot be read. -/
theorem witness_Unobservable :
    SameObservable { fresh 7 with rxLen := 3, rxPay := [(0, 1)], decCur := 2 } (fresh 7) ∧
    ({ fresh 7 with rxLen := 3, rxPay := [(0, 1)], decCur := 2 } : State) ≠ fresh 7 :=
  ⟨⟨⟨rfl, rfl, rfl, rfl, rfl, rfl⟩, rfl, rfl, rfl, rfl, rfl, rfl, by decide⟩, by decide⟩

/-- The field commands of the encoder: out of sequence, the first length that is too long, the last that fits. -/
theorem witness_EncodeFields :
    (fresh 7).encActive = false ∧ (encoding 1).encActive = true ∧
    255 < (encoding 255).encLen.toNat + 1 ∧ (encoding 254).encLen.toNat + 1 ≤ 255 ∧
    254 ≤ (encoding 254).encLen.toNat ∧ (encoding 253).encLen.toNat + 2 ≤ 255 ∧
    252 ≤ (encoding 252).encLen.toNat ∧ (encoding 251).encLen.toNat + 4 ≤ 255 := by decide

theorem witness_EncEnd :
    (encoding 1).encActive = true ∧ 1 ≤ (encoding 1).encLen.toNat ∧
    (encoding 1).txBuf.readBytes 2 (encoding 1).encLen.toNat = some [0x01] := by decide

/-- TxLenAndTxRdReadTheFrame, ReadFrameReturnsTheFrameInOrder: the last index, and the first past it. -/
theorem witness_TxRd :
    (fresh 7).txReady = false ∧ busy.txReady = true ∧ busy.txLen.toNat ≤ (6 : Half).toNat ∧ (5 : Half).toNat < busy.txLen.toNat ∧
    busy.txBuf.read (5 : Half).toNat = some 0x7D ∧
    busy.txBuf.readBytes 0 busy.txLen.toNat = some [0x3C, 0x02, 0x01, 0x7F, 0x3E, 0x7D] := by decide

/-- StreamedEncodeBuildsTheFrame: a payload of exactly 255 bytes. -/
theorem witness_StreamedEncode : (payloadBytes 0x01 (List.replicate 254 (.u8 0))).length ≤ 255 := by
  simp only [payloadBytes, List.length_cons, List.length_flatMap, List.map_replicate, List.sum_replicate, fieldBytes]; decide

/-- SendPseudoCommandsFitExactlyWithinTheirBounds: each pseudo-command at its bound. -/
theorem witness_SendPseudo :
    (Pseudo.sendBytes 0 (List.replicate 254 0)).wellFormed = true ∧ (Pseudo.sendInts 0 (List.replicate 127 0)).wellFormed = true ∧
    (Pseudo.sendFloats 0 (List.replicate 63 0)).wellFormed = true ∧
    (Pseudo.sendBytesFloats 0 (List.replicate 250 0) [0]).wellFormed = true := by
  simp only [Pseudo.wellFormed, List.length_replicate]; decide

/-- EncoderAndReceiveSideAreIndependent: the same encoder command on two states with the same transmit side. -/
theorem witness_Independent :
    SameTxSide { encoding 1 with rb := [1, 2], crcAcc := 9 } (encoding 1) ∧ isEncoder (.encU8 0) = true ∧
    answer (exec (.encU8 0) { encoding 1 with rb := [1, 2], crcAcc := 9 }) = some ⟨.ok, 0⟩ ∧
    answer (exec (.encU8 0) (encoding 1)) = some ⟨.ok, 0⟩ :=
  ⟨⟨rfl, rfl, rfl, rfl, rfl, rfl⟩, by decide⟩

/-- EncoderAndReceiveSideAreIndependent: the same other command on two states with the same receive side, CRCACC and ERRFLAGS. -/
theorem witness_Independent_receive :
    SameRxSide { busy with txReady := false, txBuf := [], encActive := true, encLen := 9 } busy ∧ isEncoder .decU8 = false ∧
    answer (exec .decU8 { busy with txReady := false, txBuf := [], encActive := true, encLen := 9 }) = some ⟨.ok, 0x7F⟩ ∧
    answer (exec .decU8 busy) = some ⟨.ok, 0x7F⟩ :=
  ⟨⟨rfl, rfl, rfl, rfl, rfl, rfl⟩, by decide⟩

/-- RxLenAndRxRdReadThePayload: the last index, and the first past it. -/
theorem witness_RxRd :
    (fresh 7).rxValid = false ∧ busy.rxValid = true ∧ busy.rxLen.toNat ≤ (8 : Half).toNat ∧ (7 : Half).toNat < busy.rxLen.toNat ∧
    busy.rxPay.read (7 : Half).toNat = some 0x3F := by decide

theorem witness_DecBegin :
    (fresh 7).rxValid = false ∧ ({ fresh 7 with rxValid := true } : State).rxLen = 0 ∧ 1 ≤ (receiving 0).rxLen.toNat ∧
    (receiving 0).rxPay.read 0 = some 0x01 := by decide

/-- DecodeFieldsReadLowByteFirst, its errors: a cursor of 0, and for each size the first cursor that is too high. -/
theorem witness_DecodeErrors :
    (receiving 0).decCur = 0 ∧ (receiving 8).rxValid = true ∧ (receiving 8).decCur ≠ 0 ∧
    (receiving 8).rxLen.toNat < (receiving 8).decCur.toNat + 1 ∧ (receiving 7).rxLen.toNat < (receiving 7).decCur.toNat + 2 ∧
    (receiving 5).rxLen.toNat < (receiving 5).decCur.toNat + 4 := by decide

/-- DecodeFieldsReadLowByteFirst: for each size the last cursor that fits, and an odd cursor. -/
theorem witness_DecodeFields :
    (receiving 4).rxValid = true ∧ (receiving 4).decCur ≠ 0 ∧ (receiving 7).rxPay.read 7 = some 0x3F ∧
    (receiving 7).decCur.toNat + 1 ≤ (receiving 7).rxLen.toNat ∧ (receiving 6).decCur.toNat + 2 ≤ (receiving 6).rxLen.toNat ∧
    (receiving 4).decCur.toNat + 4 ≤ (receiving 4).rxLen.toNat ∧ (receiving 4).rxPay.read 4 = some 0x00 ∧
    (receiving 4).rxPay.read (4 + 1) = some 0x00 ∧ (receiving 4).rxPay.read (4 + 2) = some 0x80 ∧
    (receiving 4).rxPay.read (4 + 3) = some 0x3F ∧
    answer (exec .decI16 (receiving 3)) = some ⟨.ok, 0x00FF⟩ := by decide

/-- CursorLaw: each command that changes DEC_CUR. -/
theorem witness_Cursor :
    (after (exec .extract busy)).map State.decCur = some 0 ∧ (after (exec .decBegin (receiving 0))).map State.decCur = some 1 ∧
    (after (exec .decU8 (receiving 1))).map State.decCur = some 2 ∧ (after (exec .decI16 (receiving 2))).map State.decCur = some 4 ∧
    (receiving 1).decCur.toNat ≤ (receiving 1).rxLen.toNat := by decide

/-- DecodingReversesEncoding: a payload with a field of each type. -/
theorem witness_DecodingReverses :
    (receiving 0).rxValid = true ∧
    (receiving 0).rxLen.toNat = (payloadBytes 0x01 [.u8 0x7F, .i16 0xFFFE, .f32 0x3F800000]).length ∧
    (receiving 0).rxPay.readBytes 0 (receiving 0).rxLen.toNat = some (payloadBytes 0x01 [.u8 0x7F, .i16 0xFFFE, .f32 0x3F800000]) := by
  decide

/-- EncodeLoopbackDecodeRoundTrip: a frame that fills CAP = 8 exactly. -/
theorem witness_RoundTrip :
    (holding []).rb = [] ∧ (payloadBytes 0x01 [.u8 0x7F, .i16 0xFFFE]).length ≤ 255 ∧
    4 + (payloadBytes 0x01 [.u8 0x7F, .i16 0xFFFE]).length ≤ (holding []).cap := by decide

/-- EachRegisterIsWrittenOnlyByItsCommands: a command that changes TXLEN, and one that changes ERRFLAGS. -/
theorem witness_EachRegister : (after (exec .encEnd (encoding 1))).map State.txLen = some 5 ∧ (encoding 1).txLen = 0 ∧
    (after (exec .decU8 (receiving 0))).map State.errFlags = some 0x08 ∧ (receiving 0).errFlags = 0 := by decide

theorem witness_Reads : (after (exec (.rxRd 7) busy)).map State.responses = some (busy.answered .ok 0x3F) := by decide

/-- EveryStepKeepsTheInvariant, NoStepStopsUnderTheInvariant: a state of the invariant with both views open, and a step from it. -/
theorem witness_Inv : busy.Inv ∧ (given busy 0x2000000000).Inv ∧ (after (step (given busy 0x2000000000))).isSome = true := by
  refine ⟨⟨by decide, by decide, by decide, ?_, by decide, (fun h => nomatch h), ?_, by decide, by decide, by decide⟩,
    ⟨by decide, by decide, by decide, ?_, by decide, (fun h => nomatch h), ?_, by decide, by decide, by decide⟩, by decide⟩
  all_goals intro _
  · exact ⟨[0x01, 0x7F, 0xFE, 0xFF, 0x00, 0x00, 0x80, 0x3F], by decide⟩
  · exact ⟨[0x01, 0x7F], by decide⟩
  · exact ⟨[0x01, 0x7F, 0xFE, 0xFF, 0x00, 0x00, 0x80, 0x3F], by decide⟩
  · exact ⟨[0x01, 0x7F], by decide⟩

/-- The stores are in canonical form at reset. -/
theorem test_reset_wf : State.reset.rxPay.wf rxPaySize = true ∧ State.reset.txBuf.wf txBufSize = true := by decide

end Sys2Proof.Tests
end

section
/-! SUPPORT. Facts that several statements about the state need: what the list of responses tells about an outcome, the principle that
an invariant of every event is kept by every step, and when a range of a byte store holds values. -/

namespace Sys2Proof.Machine

/-! ### Responses -/

/-- One more response determines its status and its result. -/
theorem State.answered_inj {s : State} {st st' : Status} {r r' : Word} :
    s.answered st r = s.answered st' r' ↔ st = st' ∧ r = r' := by
  simp [State.answered]

/-- The response that follows a performed command stands after the responses that the command found. -/
theorem Performs.respond_responses {i : Instr} {s u : State} {st : Status} {r : Word} (h : Performs i s st r u) :
    (u.respond st r).responses = s.answered st r := by
  obtain ⟨-, -, -, hresp⟩ := h.same
  rw [State.respond_responses, hresp, State.answered]

/-- `exec_next` for a command whose response is known: the response says which of its cases it was. -/
theorem exec_next_answered {i : Instr} {s t : State} {st : Status} {r : Word} (h : exec i s = .next t)
    (ha : t.responses = s.answered st r) :
    (∃ e, st = .error e ∧ r = 0 ∧ t = s.raiseErr e) ∨ ∃ u, Performs i s st r u ∧ t = u.respond st r := by
  rcases exec_next h with ⟨e, rfl⟩ | ⟨st', r', u, hp, rfl⟩
  · obtain ⟨rfl, rfl⟩ := State.answered_inj.1 ha
    exact .inl ⟨e, rfl, rfl, rfl⟩
  · obtain ⟨rfl, rfl⟩ := State.answered_inj.1 (hp.respond_responses.symm.trans ha)
    exact .inr ⟨u, hp, rfl⟩

/-! ### Invariants -/

/-- What survives taking an event, a reset, a contract error and every performed command survives every step. -/
theorem step_keeps {P : State → Prop} (htake : ∀ s rest, P s → P (s.takeInput rest))
    (hreset : ∀ s rest, P s → P (s.applyReset rest)) (herr : ∀ s e, P s → P (s.raiseErr e))
    (hperf : ∀ i s st r u, P s → Performs i s st r u → P (u.respond st r))
    {s t : State} (hs : P s) (h : step s = .next t) : P t := by
  rcases step_next h with ⟨-, rfl⟩ | ⟨rest, -, rfl⟩ | ⟨w, rest, e, -, -, rfl⟩ | ⟨w, rest, i, -, -, hx⟩
  · exact hs
  · exact hreset s rest hs
  · exact herr _ e (htake s rest hs)
  · rcases exec_next hx with ⟨e, rfl⟩ | ⟨st, r, u, hp, rfl⟩
    · exact herr _ e (htake s rest hs)
    · exact hperf i _ st r u (htake s rest hs) hp

/-! ### Ranges of a byte store -/

/-- A range can be read exactly when every byte of it holds a value. -/
theorem Memory.exists_readBytes_iff {m : Memory} {a n : Nat} :
    (∃ p, m.readBytes a n = some p) ↔ ∀ k, k < n → ∃ b, m.read (a + k) = some b := by
  constructor
  · rintro ⟨p, hp⟩ k hk
    rw [Memory.read_of_readBytes hp hk]
    exact ⟨_, List.getElem?_eq_getElem (by rw [Memory.readBytes_length hp]; exact hk)⟩
  · intro h
    induction n generalizing a with
    | zero => exact ⟨[], rfl⟩
    | succ n ih =>
      obtain ⟨b, hb⟩ := h 0 (Nat.succ_pos n)
      obtain ⟨p, hp⟩ := ih (a := a + 1) fun k hk => by
        simpa only [Nat.add_assoc, Nat.add_comm 1 k] using h (k + 1) (Nat.succ_lt_succ hk)
      rw [Nat.add_zero] at hb
      exact ⟨b :: p, by rw [Memory.readBytes, hb]; simp only [hp]⟩

/-- A part of a range that can be read can be read. -/
theorem Memory.exists_memRead_of_readBytes {m : Memory} {a n : Nat} {p : List Byte} (hp : m.readBytes 0 n = some p)
    {k : Nat} (h : a + k ≤ n) : ∃ v, m.memRead a k = some v := by
  obtain ⟨q, hq⟩ : ∃ q, m.readBytes a k = some q := Memory.exists_readBytes_iff.2 fun j hj => by
    simpa only [Nat.zero_add] using Memory.exists_readBytes_iff.1 ⟨p, hp⟩ (a + j) (by omega)
  exact ⟨leValue q, by rw [Memory.memRead, hq, Option.map_some]⟩

/-- `MemRead` depends only on the bytes of its range. -/
theorem Memory.memRead_congr {m m' : Memory} {a n : Nat} (h : ∀ k, k < n → m.read (a + k) = m'.read (a + k)) :
    m.memRead a n = m'.memRead a n := by
  rw [Memory.memRead, Memory.memRead, Memory.readBytes_congr h]

/-! ### What EXTRACT finds -/

/-- Discarding the noise makes RB no longer. -/
theorem dropNoise_length_le (start : Byte) (rb : List Byte) : (dropNoise start rb).length ≤ rb.length :=
  (List.dropWhile_sublist _).length_le

/-- A candidate that is copied has a payload of its length byte's length (43_frame_parser.md R145). -/
theorem candidate_payload_length {stop l : Byte} {rb p : List Byte}
    (h : candidate stop rb = .badCrc l p ∨ candidate stop rb = .frame l p) : p.length = l.toNat := by
  rcases rb_cases rb with rfl | ⟨a, rfl⟩ | ⟨a, l', tail, rfl, hs⟩ | ⟨a, l', p', x, c, tail, rfl, hp⟩
  · simp [candidate] at h
  · simp [candidate] at h
  · simp [candidate_of_short hs] at h
  · rw [candidate_of_complete hp] at h
    split_ifs at h
    · obtain ⟨rfl, rfl⟩ : l' = l ∧ p' = p := by simpa using h
      exact hp
    · obtain ⟨rfl, rfl⟩ : l' = l ∧ p' = p := by simpa using h
      exact hp
    · simp at h

end Sys2Proof.Machine
end

section
/-! SUPPORT. ERRFLAGS as the record of the contract errors since reset (spec/46_status.md R210). -/

namespace Sys2Proof.Machine

/-- A contract error adds its bit to the record. -/
theorem errSummary_append_error (rs : List Response) (e : ContractError) (r : Word) :
    errSummary (rs ++ [⟨.error e, r⟩]) = errSummary rs ||| errBit e := by
  simp [errSummary]

/-- Any other outcome leaves the record as it is (60_exceptions.md R222). -/
theorem errSummary_append_other (rs : List Response) {st : Status} (r : Word) (h : ∀ e, st ≠ .error e) :
    errSummary (rs ++ [⟨st, r⟩]) = errSummary rs := by
  cases st with
  | error e => exact absurd rfl (h e)
  | ok | empty | full | noFrame | frame => simp [errSummary]

/-- No contract error has been returned at reset. -/
theorem State.resetWith_errFlagsRecord (p : Config.Params) : (State.resetWith p).ErrFlagsRecord := rfl

theorem State.ErrFlagsRecord.raiseErr {s : State} (h : s.ErrFlagsRecord) (e : ContractError) :
    (s.raiseErr e).ErrFlagsRecord := by
  unfold State.ErrFlagsRecord at h ⊢
  rw [State.raiseErr_errFlags, State.raiseErr_responses, errSummary_append_error, h]

theorem Performs.errFlagsRecord {i : Instr} {s u : State} {st : Status} {r : Word} (hp : Performs i s st r u)
    (h : s.ErrFlagsRecord) : (u.respond st r).ErrFlagsRecord := by
  obtain ⟨-, hflags, -, hresp⟩ := hp.same
  unfold State.ErrFlagsRecord at h ⊢
  rw [State.respond_errFlags, State.respond_responses, hflags, hresp, errSummary_append_other _ _ hp.not_error, h]

/-- Settles O18: the record holds at reset and survives each kind of event. -/
theorem errFlagsRecordEveryContractError : Obligations.ErrFlagsRecordEveryContractError :=
  ⟨State.resetWith_errFlagsRecord, fun _ _ hs h =>
    step_keeps (P := State.ErrFlagsRecord)
      (htake := fun _ _ h => h)
      (hreset := fun s _ _ => State.resetWith_errFlagsRecord s.par)
      (herr := fun _ e h => h.raiseErr e)
      (hperf := fun _ _ _ _ _ h hp => hp.errFlagsRecord h) hs h⟩

end Sys2Proof.Machine
end

section
/-! SUPPORT. The invariant: each operation of the core keeps it, and so does every step; under it no step stops. -/

namespace Sys2Proof.Machine

/-! ### The frame in TXBUF -/

/-- TXBUF after ENC_END: LEN at 1, STOP and the CRC8 after the payload, every other byte as before (44_encoder.md R174). -/
theorem read_finishFrame (s : State) (crc : Byte) (a : Nat) :
    (s.finishFrame crc).txBuf.read a =
      if a = 3 + s.encLen.toNat then some crc
      else if a = 2 + s.encLen.toNat then some s.par.stop
      else if a = 1 then some s.encLen else s.txBuf.read a := by
  rw [State.finishFrame_txBuf, State.txBufWithLenStop, Memory.read_write, Memory.read_write, Memory.read_write]

/-- LEN and STOP stand outside the payload, so writing them does not disturb it (44_encoder.md R174). -/
theorem readBytes_txBufWithLenStop (s : State) :
    s.txBufWithLenStop.readBytes 2 s.encLen.toNat = s.txBuf.readBytes 2 s.encLen.toNat :=
  Memory.readBytes_congr fun k hk => by
    rw [State.txBufWithLenStop, Memory.read_write_ne _ _ (by omega), Memory.read_write_ne _ _ (by omega)]

theorem frameBytes_length (par : Config.Params) (p : List Byte) : (frameBytes par p).length = 4 + p.length := by
  simp [frameBytes]; omega

/-- TXLEN after ENC_END does not wrap. -/
theorem txLen_finishFrame (s : State) (crc : Byte) : (s.finishFrame crc).txLen.toNat = 4 + s.encLen.toNat := by
  have := s.encLen.isLt
  rw [State.finishFrame_txLen, BitVec.toNat_ofNat]
  omega

/-- ENC_END leaves a complete frame in `TXBUF[0..TXLEN)` (44_encoder.md R177). -/
theorem readBytes_finishFrame {s : State} {p : List Byte} (h0 : s.txBuf.read 0 = some s.par.start)
    (hp : s.txBuf.readBytes 2 s.encLen.toNat = some p) :
    (s.finishFrame (crc8 p)).txBuf.readBytes 0 (4 + s.encLen.toNat) = some (frameBytes s.par p) := by
  have hlen : p.length = s.encLen.toNat := Memory.readBytes_length hp
  have hl : BitVec.ofNat 8 p.length = s.encLen := by rw [hlen, BitVec.ofNat_toNat, BitVec.setWidth_eq]
  refine (Memory.readBytes_eq_some _ _ _ _).2 ⟨by rw [frameBytes_length, hlen], fun k hk => ?_⟩
  rw [Nat.zero_add, read_finishFrame, ← hlen]
  match k with
  | 0 =>
    rw [if_neg (by omega), if_neg (by omega), if_neg (by omega), h0]
    rfl
  | 1 =>
    rw [if_neg (by omega), if_neg (by omega), if_pos rfl, ← hl]
    rfl
  | j + 2 =>
    rcases Nat.lt_trichotomy j p.length with hj | rfl | hj
    · have hr : s.txBuf.read (j + 2) = p[j]? := Nat.add_comm 2 j ▸ Memory.read_of_readBytes hp (by omega)
      rw [if_neg (by omega), if_neg (by omega), if_neg (by omega), hr]
      exact (List.getElem?_append_left hj).symm
    · rw [if_neg (by omega), if_pos (by omega)]
      simp [frameBytes]
    · obtain rfl : j = p.length + 1 := by omega
      rw [if_pos (by omega)]
      simp [frameBytes]

/-- The bit of a contract error is not one of ERRFLAGS[7:6] (10_state.md R34). -/
theorem errBit_top (e : ContractError) : errBit e &&& 0xC0 = 0 := by
  cases e <;> decide

/-! ### Each operation keeps the invariant -/

theorem State.inv_resetWith (p : Config.Params) : (State.resetWith p).Inv where
  count_le_cap := Nat.zero_le _
  rxPay_wf := rfl
  txBuf_wf := rfl
  rx_view := nofun
  decCur_le := nofun
  enc_view := nofun
  tx_view := nofun
  not_both := nofun
  txLen_range := .inl rfl
  errFlags_top := BitVec.zero_and

namespace State.Inv

variable {s : State}

theorem takeInput (h : s.Inv) (rest : List Input) : (s.takeInput rest).Inv := { h with }

theorem applyReset (s : State) (rest : List Input) : (s.applyReset rest).Inv := (State.inv_resetWith s.par).takeInput rest

theorem respond (h : s.Inv) (st : Status) (r : Word) : (s.respond st r).Inv := { h with }

theorem raiseErr (h : s.Inv) (e : ContractError) : (s.raiseErr e).Inv :=
  { h with
    errFlags_top := by
      rw [State.raiseErr_errFlags, BitVec.and_comm, BitVec.and_or_distrib_left, BitVec.and_comm 0xC0, h.errFlags_top,
        BitVec.and_comm 0xC0, errBit_top]
      rfl }

theorem setRb (h : s.Inv) {l : List Byte} (hl : l.length ≤ s.cap) : (s.setRb l).Inv := { h with count_le_cap := hl }

/-- PUSH on a buffer that is not full (41_ring_buffer.md R101). -/
theorem append (h : s.Inv) (hc : s.count ≠ s.cap) (b : Byte) : (s.append b).Inv :=
  h.setRb (by rw [List.length_append]; exact Nat.lt_of_le_of_ne h.count_le_cap hc)

theorem dropFront (h : s.Inv) (n : Nat) : (s.dropFront n).Inv :=
  h.setRb ((List.drop_sublist n s.rb).length_le.trans h.count_le_cap)

theorem setCrcAcc (h : s.Inv) (c : Byte) : (s.setCrcAcc c).Inv := { h with }

theorem setDecCur (h : s.Inv) {c : Byte} (hc : c.toNat ≤ s.rxLen.toNat) : (s.setDecCur c).Inv :=
  { h with decCur_le := fun _ => hc }

theorem endRxView (h : s.Inv) : s.endRxView.Inv := { h with rx_view := nofun, decCur_le := nofun }

/-- The payload fits RXPAY, since its length is a byte; no view is open while it is copied (43_frame_parser.md R145). -/
theorem copyPayload (h : s.Inv) (hv : s.rxValid = false) {l : Byte} {p : List Byte} (hp : p.length = l.toNat) :
    (s.copyPayload l p).Inv :=
  { h with
    rxPay_wf := Memory.wf_writeBytes (by have := l.isLt; simp only [rxPaySize]; omega) h.rxPay_wf
    rx_view := fun hv' => absurd (hv.symm.trans hv') (by decide)
    decCur_le := fun hv' => absurd (hv.symm.trans hv') (by decide) }

theorem openRxView (h : s.Inv) (hp : ∃ p, s.rxPay.readBytes 0 s.rxLen.toNat = some p) : s.openRxView.Inv :=
  { h with rx_view := fun _ => hp, decCur_le := fun _ => Nat.zero_le _ }

theorem beginEncode (h : s.Inv) (b : Byte) : (s.beginEncode b).Inv :=
  { h with
    txBuf_wf := Memory.wf_write b (by decide) (Memory.wf_write _ (by decide) h.txBuf_wf)
    enc_view := fun _ => ⟨Nat.le_refl 1,
      (Memory.read_write_ne _ b (by decide)).trans (Memory.read_write_self _ 0 _),
      Memory.exists_readBytes_iff.2 fun k hk => ⟨b, by
        obtain rfl : k = 0 := Nat.lt_one_iff.1 hk
        exact Memory.read_write_self _ 2 b⟩⟩
    tx_view := nofun
    not_both := nofun }

/-- A field that fits stands after the payload so far and inside TXBUF (44_encoder.md R171 to R173). -/
theorem putField (h : s.Inv) (ha : s.encActive = true) {n : Nat} (hn : s.encLen.toNat + n ≤ 255) (v : Word) :
    (s.putField n v).Inv := by
  obtain ⟨hpos, hstart, p, hp⟩ := h.enc_view ha
  have hready : s.txReady ≠ true := fun hr => h.not_both ⟨ha, hr⟩
  exact { h with
    txBuf_wf := Memory.wf_memWrite v (by simp only [State.fieldIndex, txBufSize]; omega) h.txBuf_wf
    enc_view := fun _ => by
      rw [encLen_putField hn, read_putField, if_neg (by simp only [State.fieldIndex]; omega)]
      refine ⟨by omega, hstart, Memory.exists_readBytes_iff.2 fun k hk => ?_⟩
      rw [read_putField]
      split_ifs with hin
      · exact ⟨_, leBytes_getElem? n v (by omega)⟩
      · exact Memory.exists_readBytes_iff.1 ⟨p, hp⟩ k (by simp only [State.fieldIndex] at hin; omega)
    tx_view := fun hr => absurd hr hready }

/-- ENC_END closes the frame under construction and opens the view of the complete one (44_encoder.md R174). -/
theorem finishFrame (h : s.Inv) (ha : s.encActive = true) {p : List Byte}
    (hp : s.txBuf.readBytes 2 s.encLen.toNat = some p) : (s.finishFrame (crc8 p)).Inv := by
  obtain ⟨hpos, hstart, -⟩ := h.enc_view ha
  have hlen : p.length = s.encLen.toNat := Memory.readBytes_length hp
  have hlt := s.encLen.isLt
  exact { h with
    txBuf_wf := Memory.wf_write _ (by simp only [txBufSize]; omega)
      (Memory.wf_write _ (by simp only [txBufSize]; omega) (Memory.wf_write _ (by decide) h.txBuf_wf))
    enc_view := nofun
    tx_view := fun _ => ⟨p, hlen, by omega, by rw [txLen_finishFrame, hlen],
      by rw [txLen_finishFrame]; exact readBytes_finishFrame hstart hp⟩
    not_both := nofun
    txLen_range := .inr (by rw [txLen_finishFrame]; omega) }

end State.Inv

/-! ### Every step keeps the invariant -/

/-- The invariant after a command that is performed, from what each operation keeps. -/
theorem Performs.inv {i : Instr} {s u : State} {st : Status} {r : Word} (hp : Performs i s st r u) (h : s.Inv) : u.Inv := by
  have hnoise : (s.endRxView.setRb (dropNoise s.par.start s.rb)).Inv :=
    h.endRxView.setRb ((dropNoise_length_le _ _).trans h.count_le_cap)
  cases hp with
  | push hc => exact h.append hc _
  | pop => exact h.dropFront 1
  | clear => exact h.setRb (Nat.zero_le _)
  | extractWaiting => exact hnoise
  | extractWrongStop => exact hnoise.dropFront 1
  | extractBadCrc hc => exact (hnoise.copyPayload rfl (candidate_payload_length (.inl hc))).dropFront 1
  | @extractFrame _ l p hc =>
    have hlen : p.length = l.toNat := candidate_payload_length (.inr hc)
    refine ((hnoise.copyPayload rfl hlen).dropFront _).openRxView ⟨p, ?_⟩
    exact hlen ▸ Memory.readBytes_writeBytes_self s.rxPay 0 p
  | crcClr => exact h.setCrcAcc _
  | crcUpd => exact h.setCrcAcc _
  | encBegin => exact h.beginEncode _
  | encU8 ha hn => exact h.putField ha hn _
  | encI16 ha hn => exact h.putField ha hn _
  | encF32 ha hn => exact h.putField ha hn _
  | encEnd ha hread => exact h.finishFrame ha (readBytes_txBufWithLenStop s ▸ hread)
  | decBegin _ hl => exact h.setDecCur hl
  | decU8 _ _ hn => exact h.setDecCur ((decCur_advance hn).trans_le hn)
  | decI16 _ _ hn => exact h.setDecCur ((decCur_advance hn).trans_le hn)
  | decF32 _ _ hn => exact h.setDecCur ((decCur_advance hn).trans_le hn)
  | pushFull | popEmpty | peek | size | isEmpty | crcRd | txLen | txRd | rxLen | rxRd | errRd => exact h

/-- Settles O56: each kind of event keeps the invariant. -/
theorem everyStepKeepsTheInvariant : Obligations.EveryStepKeepsTheInvariant := fun _ _ =>
  step_keeps (P := State.Inv)
    (htake := fun _ rest h => h.takeInput rest)
    (hreset := fun s rest _ => State.Inv.applyReset s rest)
    (herr := fun _ e h => h.raiseErr e)
    (hperf := fun _ _ st r _ h hp => (hp.inv h).respond st r)

/-! ### Under the invariant no step stops -/

/-- In an open receive view every index below RXLEN reads a byte (10_state.md R25). -/
theorem State.Inv.exists_read_rxPay {s : State} (h : s.Inv) (hv : s.rxValid = true) {a : Nat} (ha : a < s.rxLen.toNat) :
    ∃ b, s.rxPay.read a = some b := by
  simpa only [Nat.zero_add] using Memory.exists_readBytes_iff.1 (h.rx_view hv) a ha

/-- In an open transmit view every index below TXLEN reads a byte (10_state.md R32). -/
theorem State.Inv.exists_read_txBuf {s : State} (h : s.Inv) (hr : s.txReady = true) {a : Nat} (ha : a < s.txLen.toNat) :
    ∃ b, s.txBuf.read a = some b := by
  obtain ⟨p, -, -, -, hframe⟩ := h.tx_view hr
  simpa only [Nat.zero_add] using Memory.exists_readBytes_iff.1 ⟨_, hframe⟩ a ha

theorem encodeField_completes (n : Nat) (v : Word) (s : State) : ∃ t, encodeField n v s = .next t := by
  unfold encodeField
  split_ifs <;> exact ⟨_, rfl⟩

theorem decodeField_completes {s : State} (h : s.Inv) (n : Nat) : ∃ t, decodeField n s = .next t := by
  unfold decodeField
  split_ifs with hseq hshort
  · exact ⟨_, rfl⟩
  · exact ⟨_, rfl⟩
  · obtain ⟨p, hp⟩ := h.rx_view (by simpa using (not_or.1 hseq).1)
    obtain ⟨v, hv⟩ := Memory.exists_memRead_of_readBytes hp (Nat.le_of_not_lt hshort)
    exact ⟨_, by rw [hv]; rfl⟩

theorem execRxRd_completes {s : State} (h : s.Inv) (i : Half) : ∃ t, execRxRd i s = .next t := by
  unfold execRxRd
  split_ifs with hv hi
  · exact ⟨_, rfl⟩
  · exact ⟨_, rfl⟩
  · obtain ⟨b, hb⟩ := h.exists_read_rxPay (by simpa using hv) (Nat.lt_of_not_le hi)
    exact ⟨_, by rw [hb]; rfl⟩

theorem execDecBegin_completes {s : State} (h : s.Inv) : ∃ t, execDecBegin s = .next t := by
  unfold execDecBegin
  split_ifs with hv hl
  · exact ⟨_, rfl⟩
  · exact ⟨_, rfl⟩
  · obtain ⟨b, hb⟩ := h.exists_read_rxPay (by simpa using hv) (Nat.le_of_not_lt hl)
    exact ⟨_, by rw [hb]; rfl⟩

theorem execTxRd_completes {s : State} (h : s.Inv) (i : Half) : ∃ t, execTxRd i s = .next t := by
  unfold execTxRd
  split_ifs with hr hi
  · exact ⟨_, rfl⟩
  · exact ⟨_, rfl⟩
  · obtain ⟨b, hb⟩ := h.exists_read_txBuf (by simpa using hr) (Nat.lt_of_not_le hi)
    exact ⟨_, by rw [hb]; rfl⟩

theorem execEncEnd_completes {s : State} (h : s.Inv) : ∃ t, execEncEnd s = .next t := by
  unfold execEncEnd
  split_ifs with ha
  · exact ⟨_, rfl⟩
  · obtain ⟨-, -, p, hp⟩ := h.enc_view (by simpa using ha)
    exact ⟨_, by rw [readBytes_txBufWithLenStop, hp]; rfl⟩

/-- Every command is performed or ends in a contract error: only the commands that read a store need the invariant. -/
theorem exec_completes {s : State} (h : s.Inv) (i : Instr) : ∃ t, exec i s = .next t := by
  cases i with
  | push b => simp only [exec, execPush]; split_ifs <;> exact ⟨_, rfl⟩
  | pop => simp only [exec, execPop]; split <;> exact ⟨_, rfl⟩
  | peek k => simp only [exec, execPeek]; split <;> exact ⟨_, rfl⟩
  | extract => exact extractCandidate_completes _
  | encU8 b => exact encodeField_completes 1 _ s
  | encI16 w => exact encodeField_completes 2 _ s
  | encF32 w => exact encodeField_completes 4 _ s
  | encEnd => exact execEncEnd_completes h
  | txLen => simp only [exec, execTxLen]; split_ifs <;> exact ⟨_, rfl⟩
  | txRd k => exact execTxRd_completes h k
  | rxLen => simp only [exec, execRxLen]; split_ifs <;> exact ⟨_, rfl⟩
  | rxRd k => exact execRxRd_completes h k
  | decBegin => exact execDecBegin_completes h
  | decU8 => exact decodeField_completes h 1
  | decI16 => exact decodeField_completes h 2
  | decF32 => exact decodeField_completes h 4
  | size | isEmpty | clear | crcClr | crcUpd _ | crcRd | encBegin _ | errRd => exact ⟨_, rfl⟩

/-- Settles O57: a step idles, resets, reports a decoding error, or runs a command that completes. -/
theorem noStepStopsUnderTheInvariant : Obligations.NoStepStopsUnderTheInvariant := by
  intro s h
  unfold step
  split
  · exact ⟨_, rfl⟩
  · exact ⟨_, rfl⟩
  · rename_i w rest _
    split
    · exact ⟨_, rfl⟩
    · rename_i i _
      exact exec_completes (h.takeInput rest) i

end Sys2Proof.Machine
end

section
/-! SUPPORT. What leaves no trace in anything a command can read (spec/43_frame_parser.md R145): the receive registers behind a closed
view, and RXPAY outside an open one. -/

namespace Sys2Proof.Machine

/-- `s` with other contents of RXLEN, RXPAY and DEC_CUR. -/
def State.withRx (l : Byte) (m : Memory) (c : Byte) (s : State) : State := { s with rxLen := l, rxPay := m, decCur := c }

section

variable (s : State) (l c : Byte) (m : Memory)

@[simp] theorem State.withRx_par : (s.withRx l m c).par = s.par := rfl
@[simp] theorem State.withRx_rb : (s.withRx l m c).rb = s.rb := rfl
@[simp] theorem State.withRx_crcAcc : (s.withRx l m c).crcAcc = s.crcAcc := rfl
@[simp] theorem State.withRx_rxValid : (s.withRx l m c).rxValid = s.rxValid := rfl
@[simp] theorem State.withRx_rxLen : (s.withRx l m c).rxLen = l := rfl
@[simp] theorem State.withRx_rxPay : (s.withRx l m c).rxPay = m := rfl
@[simp] theorem State.withRx_decCur : (s.withRx l m c).decCur = c := rfl
@[simp] theorem State.withRx_encActive : (s.withRx l m c).encActive = s.encActive := rfl
@[simp] theorem State.withRx_encLen : (s.withRx l m c).encLen = s.encLen := rfl
@[simp] theorem State.withRx_txBuf : (s.withRx l m c).txBuf = s.txBuf := rfl
@[simp] theorem State.withRx_txReady : (s.withRx l m c).txReady = s.txReady := rfl
@[simp] theorem State.withRx_txLen : (s.withRx l m c).txLen = s.txLen := rfl
@[simp] theorem State.withRx_errFlags : (s.withRx l m c).errFlags = s.errFlags := rfl
@[simp] theorem State.withRx_inputs : (s.withRx l m c).inputs = s.inputs := rfl
@[simp] theorem State.withRx_responses : (s.withRx l m c).responses = s.responses := rfl

end

/-- Other contents of RXLEN, RXPAY and DEC_CUR that agree with those of `s` on what an open view shows. -/
def State.ViewAgrees (s : State) (l : Byte) (m : Memory) (c : Byte) : Prop :=
  s.rxValid = true → s.rxLen = l ∧ s.decCur = c ∧ ∀ a, a < s.rxLen.toNat → s.rxPay.read a = m.read a

/-- Two states that the host cannot tell apart are one state with two contents of its receive registers. -/
theorem sameObservable_iff {s t : State} :
    SameObservable s t ↔ ∃ l m c, t = s.withRx l m c ∧ s.ViewAgrees l m c := by
  constructor
  · rintro ⟨⟨hpar, hact, hlen, hbuf, hready, htx⟩, hrb, hcrc, hvalid, herr, hin, hresp, hrx⟩
    refine ⟨t.rxLen, t.rxPay, t.decCur, ?_, hrx⟩
    rw [State.withRx, hpar, hact, hlen, hbuf, hready, htx, hrb, hcrc, hvalid, herr, hin, hresp]
  · rintro ⟨l, m, c, rfl, hv⟩
    exact ⟨⟨rfl, rfl, rfl, rfl, rfl, rfl⟩, rfl, rfl, rfl, rfl, rfl, rfl, hv⟩

/-- While the view is closed, any contents agree (43_frame_parser.md R145). -/
theorem State.viewAgrees_of_closed {s : State} (h : s.rxValid = false) (l : Byte) (m : Memory) (c : Byte) :
    s.ViewAgrees l m c :=
  fun hv => absurd (h.symm.trans hv) (by decide)

/-! ### How two results compare -/

section

variable {u : State} {l c : Byte} {m : Memory}

theorem sameResult_finish {st : Status} {r : Word} (h : u.ViewAgrees l m c) :
    SameResult (finish st r u) (finish st r (u.withRx l m c)) :=
  sameObservable_iff.2 ⟨l, m, c, rfl, h⟩

theorem sameResult_raise {e : ContractError} (h : u.ViewAgrees l m c) : SameResult (raise e u) (raise e (u.withRx l m c)) :=
  sameObservable_iff.2 ⟨l, m, c, rfl, h⟩

/-- Both results take the same branch. -/
theorem sameResult_ite {p : Prop} [Decidable p] {a a' b b' : Result} (ht : p → SameResult a a') (he : ¬ p → SameResult b b') :
    SameResult (if p then a else b) (if p then a' else b') := by
  split_ifs with hp
  · exact ht hp
  · exact he hp

/-! ### The commands that read the receive view -/

theorem execRxLen_sameResult (h : u.ViewAgrees l m c) : SameResult (execRxLen u) (execRxLen (u.withRx l m c)) :=
  sameResult_ite (fun _ => sameResult_raise h) fun hopen => by
    obtain ⟨rfl, -, -⟩ := h (by simpa using hopen)
    exact sameResult_finish h

theorem execRxRd_sameResult (i : Half) (h : u.ViewAgrees l m c) :
    SameResult (execRxRd i u) (execRxRd i (u.withRx l m c)) :=
  sameResult_ite (fun _ => sameResult_raise h) fun hopen => by
    obtain ⟨rfl, -, hread⟩ := h (by simpa using hopen)
    refine sameResult_ite (fun _ => sameResult_raise h) fun hi => ?_
    simp only [State.withRx_rxPay, ← hread _ (Nat.lt_of_not_le hi)]
    cases u.rxPay.read (indexOperand i) with
    | none => rfl
    | some b => exact sameResult_finish h

theorem execDecBegin_sameResult (h : u.ViewAgrees l m c) : SameResult (execDecBegin u) (execDecBegin (u.withRx l m c)) :=
  sameResult_ite (fun _ => sameResult_raise h) fun hopen => by
    obtain ⟨rfl, rfl, hread⟩ := h (by simpa using hopen)
    refine sameResult_ite (fun _ => sameResult_raise h) fun hl => ?_
    simp only [State.withRx_rxPay, ← hread 0 (Nat.le_of_not_lt hl)]
    cases u.rxPay.read 0 with
    | none => rfl
    | some b => exact sameResult_finish (u := u.setDecCur 1) (c := 1) fun _ => ⟨rfl, rfl, hread⟩

theorem decodeField_sameResult (n : Nat) (h : u.ViewAgrees l m c) :
    SameResult (decodeField n u) (decodeField n (u.withRx l m c)) := by
  by_cases hopen : u.rxValid = true
  · obtain ⟨rfl, rfl, hread⟩ := h hopen
    refine sameResult_ite (fun _ => sameResult_raise h) fun _ =>
      sameResult_ite (fun _ => sameResult_raise h) fun hn => ?_
    have hmem : u.rxPay.memRead u.decCur.toNat n = m.memRead u.decCur.toNat n :=
      Memory.memRead_congr fun k hk => hread _ (by omega)
    simp only [State.withRx_rxPay, State.withRx_decCur, ← hmem]
    cases u.rxPay.memRead u.decCur.toNat n with
    | none => rfl
    | some v =>
      exact sameResult_finish (u := u.setDecCur (u.decCur + BitVec.ofNat 8 n)) fun _ => ⟨rfl, rfl, hread⟩
  · have hclosed : u.rxValid = false := by simpa using hopen
    rw [decodeField, decodeField, if_pos (.inl hclosed), if_pos (.inl hclosed)]
    exact sameResult_raise h

/-! ### EXTRACT -/

/-- Two copies of the same payload agree on its bytes, whatever the stores held before (43_frame_parser.md R145). -/
theorem read_writeBytes_eq_of_lt {p : List Byte} (m m' : Memory) {a : Nat} (ha : a < p.length) :
    (m.writeBytes 0 p).read a = (m'.writeBytes 0 p).read a := by
  rw [Memory.read_writeBytes, Memory.read_writeBytes, if_pos (by omega), if_pos (by omega)]

/-- EXTRACT closes the view first, so that only a frame it accepts can be seen, and of that both states show the same payload. -/
theorem extractCandidate_sameResult (hclosed : u.rxValid = false) :
    SameResult (extractCandidate u) (extractCandidate (u.withRx l m c)) := by
  have hu : u.ViewAgrees l m c := State.viewAgrees_of_closed hclosed l m c
  simp only [extractCandidate, State.withRx_par, State.withRx_rb]
  cases hcand : candidate u.par.stop u.rb with
  | waiting => exact sameResult_finish hu
  | wrongStop => exact sameResult_finish (u := u.dropFront 1) hu
  | badCrc l' p =>
    exact sameResult_finish (u := (u.copyPayload l' p).dropFront 1) (l := l') (m := m.writeBytes 0 p) (c := c)
      (State.viewAgrees_of_closed (s := (u.copyPayload l' p).dropFront 1) hclosed _ _ _)
  | frame l' p =>
    have hlen : p.length = l'.toNat := candidate_payload_length (.inr hcand)
    exact sameResult_finish (u := ((u.copyPayload l' p).dropFront (4 + l'.toNat)).openRxView) (l := l')
      (m := m.writeBytes 0 p) (c := 0)
      fun _ => ⟨rfl, rfl, fun a ha => read_writeBytes_eq_of_lt u.rxPay m (ha.trans_eq hlen.symm)⟩

/-! ### The commands that do not read the receive view -/

theorem encodeField_sameResult (n : Nat) (v : Word) (h : u.ViewAgrees l m c) :
    SameResult (encodeField n v u) (encodeField n v (u.withRx l m c)) :=
  sameResult_ite (fun _ => sameResult_raise h) fun _ =>
    sameResult_ite (fun _ => sameResult_raise h) fun _ => sameResult_finish (u := u.putField n v) h

theorem execEncEnd_sameResult (h : u.ViewAgrees l m c) : SameResult (execEncEnd u) (execEncEnd (u.withRx l m c)) :=
  sameResult_ite (fun _ => sameResult_raise h) fun _ => by
    simp only [State.txBufWithLenStop, State.withRx_txBuf, State.withRx_encLen, State.withRx_par]
    split
    · rfl
    · rename_i p _
      exact sameResult_finish (u := u.finishFrame (crc8 p)) h

theorem execTxRd_sameResult (i : Half) (h : u.ViewAgrees l m c) :
    SameResult (execTxRd i u) (execTxRd i (u.withRx l m c)) :=
  sameResult_ite (fun _ => sameResult_raise h) fun _ => sameResult_ite (fun _ => sameResult_raise h) fun _ => by
    simp only [State.withRx_txBuf]
    cases u.txBuf.read (indexOperand i) with
    | none => rfl
    | some b => exact sameResult_finish h

theorem execPop_sameResult (h : u.ViewAgrees l m c) : SameResult (execPop u) (execPop (u.withRx l m c)) := by
  simp only [execPop, State.withRx_rb]
  cases u.rb with
  | nil => exact sameResult_finish h
  | cons v tail => exact sameResult_finish (u := u.dropFront 1) h

theorem execPeek_sameResult (i : Half) (h : u.ViewAgrees l m c) :
    SameResult (execPeek i u) (execPeek i (u.withRx l m c)) := by
  simp only [execPeek, State.withRx_rb]
  cases u.rb[indexOperand i]? with
  | none => exact sameResult_raise h
  | some b => exact sameResult_finish h

/-! ### Every command, every step -/

/-- No command tells apart two contents of the receive registers that agree on what the view shows. -/
theorem exec_sameResult (i : Instr) (h : u.ViewAgrees l m c) : SameResult (exec i u) (exec i (u.withRx l m c)) := by
  cases i with
  | push b => exact sameResult_ite (fun _ => sameResult_finish h) fun _ => sameResult_finish (u := u.append b) h
  | pop => exact execPop_sameResult h
  | peek i => exact execPeek_sameResult i h
  | clear => exact sameResult_finish (u := u.setRb []) h
  | extract => exact extractCandidate_sameResult (u := u.endRxView.setRb (dropNoise u.par.start u.rb)) rfl
  | crcClr => exact sameResult_finish (u := u.setCrcAcc 0) h
  | crcUpd b => exact sameResult_finish (u := u.setCrcAcc (crc8Step u.crcAcc b)) h
  | encBegin b => exact sameResult_finish (u := u.beginEncode b) h
  | encU8 b => exact encodeField_sameResult 1 _ h
  | encI16 w => exact encodeField_sameResult 2 _ h
  | encF32 w => exact encodeField_sameResult 4 _ h
  | encEnd => exact execEncEnd_sameResult h
  | txLen => exact sameResult_ite (fun _ => sameResult_raise h) fun _ => sameResult_finish h
  | txRd i => exact execTxRd_sameResult i h
  | rxLen => exact execRxLen_sameResult h
  | rxRd i => exact execRxRd_sameResult i h
  | decBegin => exact execDecBegin_sameResult h
  | decU8 => exact decodeField_sameResult 1 h
  | decI16 => exact decodeField_sameResult 2 h
  | decF32 => exact decodeField_sameResult 4 h
  | size | isEmpty | crcRd | errRd => exact sameResult_finish h

theorem step_sameResult (h : u.ViewAgrees l m c) : SameResult (step u) (step (u.withRx l m c)) := by
  simp only [step, State.withRx_inputs]
  split
  · exact sameObservable_iff.2 ⟨l, m, c, rfl, h⟩
  · rename_i rest _
    exact sameObservable_iff.2 ⟨0, [], 0, rfl, State.viewAgrees_of_closed rfl _ _ _⟩
  · rename_i w rest _
    split
    · exact sameResult_raise (u := u.takeInput rest) h
    · rename_i i _
      exact exec_sameResult (u := u.takeInput rest) i h

end

/-- Settles O36: a step on one state with two contents of its receive registers. -/
theorem unreadablePayloadIsUnobservable : Obligations.UnreadablePayloadIsUnobservable := by
  intro s t h
  obtain ⟨l, m, c, rfl, hv⟩ := sameObservable_iff.1 h
  exact step_sameResult hv

end Sys2Proof.Machine
end

section
/-! SUPPORT. Which register each command writes (spec/10_state.md R21 to R35), the life of the receive view (R25), the cursor law
(spec/45_decoder.md R196), and the status codes (spec/60_exceptions.md R220). -/

namespace Sys2Proof.Machine

/-! ### What a command that is performed writes, register by register -/

section

variable {i : Instr} {s u : State} {st : Status} {r : Word}

/-- RB (10_state.md R21). -/
theorem Performs.rb_writers (h : Performs i s st r u) (hne : u.rb ≠ s.rb) :
    (∃ b, i = .push b) ∨ i = .pop ∨ i = .clear ∨ i = .extract := by
  cases h with
  | push => exact .inl ⟨_, rfl⟩
  | pop => exact .inr (.inl rfl)
  | clear => exact .inr (.inr (.inl rfl))
  | extractWaiting | extractWrongStop | extractBadCrc | extractFrame => exact .inr (.inr (.inr rfl))
  | _ => exact absurd rfl hne

/-- CRCACC (10_state.md R24). -/
theorem Performs.crcAcc_writers (h : Performs i s st r u) (hne : u.crcAcc ≠ s.crcAcc) :
    i = .crcClr ∨ ∃ b, i = .crcUpd b := by
  cases h with
  | crcClr => exact .inl rfl
  | crcUpd => exact .inr ⟨_, rfl⟩
  | _ => exact absurd rfl hne

/-- RX_VALID, RXLEN and RXPAY (10_state.md R25 to R27). -/
theorem Performs.rxView_same (h : Performs i s st r u) (hi : i ≠ .extract) :
    u.rxValid = s.rxValid ∧ u.rxLen = s.rxLen ∧ u.rxPay = s.rxPay := by
  cases h with
  | extractWaiting | extractWrongStop | extractBadCrc | extractFrame => exact absurd rfl hi
  | _ => exact ⟨rfl, rfl, rfl⟩

/-- DEC_CUR, with the value that each of its writers gives it (10_state.md R28, 45_decoder.md R196). -/
theorem Performs.decCur_writers (h : Performs i s st r u) (hne : u.decCur ≠ s.decCur) :
    (i = .extract ∧ st = .frame ∧ u.decCur = 0) ∨ (i = .decBegin ∧ st = .ok ∧ u.decCur = 1) ∨
    (i = .decU8 ∧ st = .ok ∧ u.decCur.toNat = s.decCur.toNat + 1) ∨
    (i = .decI16 ∧ st = .ok ∧ u.decCur.toNat = s.decCur.toNat + 2) ∨
    (i = .decF32 ∧ st = .ok ∧ u.decCur.toNat = s.decCur.toNat + 4) := by
  cases h with
  | extractFrame => exact .inl ⟨rfl, rfl, rfl⟩
  | decBegin => exact .inr (.inl ⟨rfl, rfl, rfl⟩)
  | decU8 _ _ hn => exact .inr (.inr (.inl ⟨rfl, rfl, decCur_advance hn⟩))
  | decI16 _ _ hn => exact .inr (.inr (.inr (.inl ⟨rfl, rfl, decCur_advance hn⟩)))
  | decF32 _ _ hn => exact .inr (.inr (.inr (.inr ⟨rfl, rfl, decCur_advance hn⟩)))
  | _ => exact absurd rfl hne

/-- ENC_ACTIVE and TX_READY (10_state.md R29, R32). -/
theorem Performs.txFlags_same (h : Performs i s st r u) (hb : ∀ b, i ≠ .encBegin b) (he : i ≠ .encEnd) :
    u.encActive = s.encActive ∧ u.txReady = s.txReady := by
  cases h with
  | encBegin => exact absurd rfl (hb _)
  | encEnd => exact absurd rfl he
  | _ => exact ⟨rfl, rfl⟩

/-- TXLEN (10_state.md R33). -/
theorem Performs.txLen_writers (h : Performs i s st r u) (hne : u.txLen ≠ s.txLen) : i = .encEnd := by
  cases h with
  | encEnd => rfl
  | _ => exact absurd rfl hne

/-- ENC_LEN (10_state.md R30). -/
theorem Performs.encLen_writers (h : Performs i s st r u) (hne : u.encLen ≠ s.encLen) :
    (∃ b, i = .encBegin b) ∨ (∃ b, i = .encU8 b) ∨ (∃ h, i = .encI16 h) ∨ ∃ w, i = .encF32 w := by
  cases h with
  | encBegin => exact .inl ⟨_, rfl⟩
  | encU8 => exact .inr (.inl ⟨_, rfl⟩)
  | encI16 => exact .inr (.inr (.inl ⟨_, rfl⟩))
  | encF32 => exact .inr (.inr (.inr ⟨_, rfl⟩))
  | _ => exact absurd rfl hne

/-- TXBUF (10_state.md R31): the writers of ENC_LEN, and ENC_END. -/
theorem Performs.txBuf_writers (h : Performs i s st r u) (hne : u.txBuf ≠ s.txBuf) :
    (∃ b, i = .encBegin b) ∨ (∃ b, i = .encU8 b) ∨ (∃ h, i = .encI16 h) ∨ (∃ w, i = .encF32 w) ∨ i = .encEnd := by
  cases h with
  | encBegin => exact .inl ⟨_, rfl⟩
  | encU8 => exact .inr (.inl ⟨_, rfl⟩)
  | encI16 => exact .inr (.inr (.inl ⟨_, rfl⟩))
  | encF32 => exact .inr (.inr (.inr (.inl ⟨_, rfl⟩)))
  | encEnd => exact .inr (.inr (.inr (.inr rfl)))
  | _ => exact absurd rfl hne

end

/-- Settles O53: a contract error writes ERRFLAGS only, and a performed command what its register lemmas say. -/
theorem eachRegisterIsWrittenOnlyByItsCommands : Obligations.EachRegisterIsWrittenOnlyByItsCommands := by
  intro i s t h
  rcases exec_next h with ⟨e, rfl⟩ | ⟨st, r, u, hp, rfl⟩
  · refine ⟨rfl, rfl, ?_, ?_, ?_, ?_, ?_, ?_, ?_, ?_, fun _ => ⟨e, rfl⟩⟩ <;> simp
  · obtain ⟨hpar, hflags, hin, -⟩ := hp.same
    refine ⟨hpar, hin, hp.rb_writers, hp.crcAcc_writers, fun hne => ?_, fun hne => ?_, fun hne => ?_, hp.txLen_writers,
      hp.encLen_writers, hp.txBuf_writers, fun hne => absurd hflags hne⟩
    · by_contra hi
      obtain ⟨hv, hl, hm⟩ := hp.rxView_same hi
      exact hne.elim (· hv) (·.elim (· hl) (· hm))
    · rcases hp.decCur_writers hne with ⟨hi, -⟩ | ⟨hi, -⟩ | ⟨hi, -⟩ | ⟨hi, -⟩ | ⟨hi, -⟩ <;> simp [hi]
    · by_contra hi
      obtain ⟨hb, he⟩ := not_or.1 hi
      obtain ⟨ha, hr⟩ := hp.txFlags_same (not_exists.1 hb) he
      exact hne.elim (· ha) (· hr)

/-! ### The receive view -/

/-- EXTRACT never ends in a contract error (43_frame_parser.md R153). -/
theorem exec_extract_performs (s : State) :
    ∃ st r u, Performs .extract s st r u ∧ exec .extract s = .next (u.respond st r) := by
  simp only [exec, execExtract, extractCandidate, State.setRb_par, State.endRxView_par, State.setRb_rb]
  split <;> rename_i hc
  · exact ⟨_, _, _, .extractWaiting hc, rfl⟩
  · exact ⟨_, _, _, .extractWrongStop hc, rfl⟩
  · exact ⟨_, _, _, .extractBadCrc hc, rfl⟩
  · exact ⟨_, _, _, .extractFrame hc, rfl⟩

/-- EXTRACT opens the view exactly when it answers FRAME with RXLEN (43_frame_parser.md R147). -/
theorem Performs.extract_rxValid_iff {s u : State} {st : Status} {r : Word} (h : Performs .extract s st r u) :
    u.rxValid = true ↔ st = .frame ∧ r = byteResult u.rxLen := by
  cases h with
  | extractFrame => exact iff_of_true rfl ⟨rfl, rfl⟩
  | extractWaiting | extractWrongStop | extractBadCrc => exact iff_of_false nofun nofun

/-- Settles O34: EXTRACT always performs and its outcome says whether the view is readable; no other command writes RX_VALID. -/
theorem receiveViewLifetime : Obligations.ReceiveViewLifetime := by
  refine fun s t => ⟨fun h => ?_, fun i hi h => ?_⟩
  · obtain ⟨st, r, u, hp, hx⟩ := exec_extract_performs s
    obtain rfl : u.respond st r = t := by simpa using hx.symm.trans h
    rw [State.respond_rxValid, State.respond_rxLen, hp.extract_rxValid_iff, hp.respond_responses, State.answered_inj,
      byteResult]
  · rcases exec_next h with ⟨e, rfl⟩ | ⟨st, r, u, hp, rfl⟩
    · rfl
    · exact (hp.rxView_same hi).1

/-! ### The cursor law -/

/-- A performed command leaves the cursor within the payload (45_decoder.md R196). -/
theorem Performs.decCur_le {i : Instr} {s u : State} {st : Status} {r : Word} (h : Performs i s st r u)
    (hs : s.rxValid = true → s.decCur.toNat ≤ s.rxLen.toNat) (hv : u.rxValid = true) : u.decCur.toNat ≤ u.rxLen.toNat := by
  cases h with
  | extractWaiting | extractWrongStop | extractBadCrc => cases hv
  | extractFrame => exact Nat.zero_le _
  | decBegin _ hl => exact hl
  | decU8 _ _ hn => exact (decCur_advance hn).trans_le hn
  | decI16 _ _ hn => exact (decCur_advance hn).trans_le hn
  | decF32 _ _ hn => exact (decCur_advance hn).trans_le hn
  | _ => exact hs hv

/-- Settles O50: a contract error keeps the cursor, and a performed command obeys the two laws. -/
theorem cursorLaw : Obligations.CursorLaw := by
  intro i s t st r h ha
  rcases exec_next_answered h ha with ⟨e, -, -, rfl⟩ | ⟨u, hp, rfl⟩
  · exact ⟨fun hne => absurd rfl hne, fun hs => hs⟩
  · exact ⟨hp.decCur_writers, hp.decCur_le⟩

/-! ### Status codes and the response word -/

/-- `STATUS[7]` marks the contract errors (60_exceptions.md R220). -/
theorem statusCode_top_iff (st : Status) : (statusCode st).getLsbD 7 = true ↔ ∃ e, st = .error e := by
  cases st with
  | error e => exact iff_of_true (by cases e <;> decide) ⟨e, rfl⟩
  | ok | empty | full | noFrame | frame => exact iff_of_false (by decide) nofun

/-- The two fields of the response word do not overlap (30_encoding.md R72). -/
theorem responseWord_toNat (r : Response) :
    (responseWord r).toNat = (statusCode r.status).toNat * 2 ^ 32 + r.result.toNat := by
  have hst := (statusCode r.status).isLt
  have hres := r.result.isLt
  rw [responseWord, BitVec.toNat_or, BitVec.toNat_shiftLeft, BitVec.toNat_setWidth, BitVec.toNat_setWidth,
    Nat.mod_eq_of_lt (a := (statusCode r.status).toNat) (by omega), Nat.mod_eq_of_lt (a := r.result.toNat) (by omega),
    Nat.mod_eq_of_lt (by rw [Nat.shiftLeft_eq]; omega), ← Nat.shiftLeft_add_eq_or_of_lt hres, Nat.shiftLeft_eq]

/-- Settles O12: the tables entry by entry, then bit 7 and the response word for every status and result. -/
theorem statusCodesAndFlagBits : Obligations.StatusCodesAndFlagBits :=
  ⟨rfl, rfl, rfl, rfl, rfl, rfl, rfl, rfl, rfl, rfl, rfl, rfl, rfl, rfl, rfl, rfl, rfl, statusCode_top_iff,
    responseWord_toNat⟩

end Sys2Proof.Machine
end

section
/-! SUPPORT. A list of commands performed one after the other (spec/20_memory.md R61): a command that is performed answers, a run goes
on from where it stands, and a sequence of reads changes nothing (R59). -/

namespace Sys2Proof.Machine

/-! ### One command -/

/-- A command that is performed answers: the converse of `exec_next`. -/
theorem Performs.exec_eq {i : Instr} {s u : State} {st : Status} {r : Word} (h : Performs i s st r u) :
    exec i s = .next (u.respond st r) := by
  cases h with
  | pushFull hc => exact if_pos hc
  | push hc => exact if_neg hc
  | popEmpty hr | pop hr => simp only [exec, execPop, hr]; rfl
  | peek hb => simp only [exec, execPeek, hb]; rfl
  | extractWaiting hc | extractWrongStop hc | extractBadCrc hc | extractFrame hc =>
    simp only [exec, execExtract, extractCandidate, State.setRb_par, State.endRxView_par, State.setRb_rb, hc]
    rfl
  | encU8 ha hn | encI16 ha hn | encF32 ha hn => exact encodeField_ok ha hn
  | encEnd ha hp => simp only [exec, execEncEnd, ha, hp]; rfl
  | txLen h => simp only [exec, execTxLen, h]; rfl
  | txRd h hi hb => simp only [exec, execTxRd, h, Nat.not_le.2 hi, hb]; rfl
  | rxLen h => simp only [exec, execRxLen, h]; rfl
  | rxRd h hi hb => simp only [exec, execRxRd, h, Nat.not_le.2 hi, hb]; rfl
  | decBegin h hl hb => simp only [exec, execDecBegin, h, Nat.not_lt.2 hl, hb]; rfl
  | decU8 h hc hn hv | decI16 h hc hn hv | decF32 h hc hn hv => exact decodeField_ok h hc hn hv
  | size | isEmpty | clear | crcClr | crcUpd | crcRd | encBegin | errRd => rfl

/-! ### A run of commands -/

theorem runCommands_cons_of_performs {i : Instr} {s u : State} {st : Status} {r : Word} (h : Performs i s st r u)
    (is : List Instr) : runCommands (i :: is) s = runCommands is (u.respond st r) := by
  rw [runCommands, h.exec_eq]

/-- A run of two lists of commands goes on from where the first list ends. -/
theorem runCommands_append {is : List Instr} {s t : State} (h : runCommands is s = .next t) (js : List Instr) :
    runCommands (is ++ js) s = runCommands js t := by
  induction is generalizing s with
  | nil => cases h; rfl
  | cons i is ih =>
    rw [runCommands] at h
    rw [List.cons_append, runCommands]
    cases hx : exec i s with
    | next u => rw [hx] at h; exact ih h
    | fault f => rw [hx] at h; cases h
    | refused f => rw [hx] at h; cases h

/-! ### The reads -/

/-- The commands that change no state when they succeed (20_memory.md R59). -/
def isRead : Instr → Bool
  | .peek _ | .size | .isEmpty | .crcRd | .txLen | .txRd _ | .rxLen | .rxRd _ | .errRd => true
  | .push _ | .pop | .clear | .extract | .crcClr | .crcUpd _ | .encBegin _ | .encU8 _ | .encI16 _ | .encF32 _ | .encEnd
  | .decBegin | .decU8 | .decI16 | .decF32 => false

theorem isRead_iff (i : Instr) : isRead i = true ↔
    (∃ k, i = .peek k) ∨ i = .size ∨ i = .isEmpty ∨ i = .crcRd ∨ i = .txLen ∨ (∃ k, i = .txRd k) ∨ i = .rxLen ∨
      (∃ k, i = .rxRd k) ∨ i = .errRd := by
  cases i <;> simp [isRead]

/-- A read changes no state, and reads the same again once it has been answered, or another command has (20_memory.md R59). -/
theorem Performs.of_isRead {i : Instr} {s u : State} {st : Status} {r : Word} (h : Performs i s st r u)
    (hi : isRead i = true) :
    u = s ∧ ∀ st' r', Performs i (s.respond st' r') st r (s.respond st' r') := by
  cases h with
  | peek hb => exact ⟨rfl, fun _ _ => .peek hb⟩
  | size => exact ⟨rfl, fun _ _ => .size⟩
  | isEmpty => exact ⟨rfl, fun _ _ => .isEmpty⟩
  | crcRd => exact ⟨rfl, fun _ _ => .crcRd⟩
  | txLen h => exact ⟨rfl, fun _ _ => .txLen h⟩
  | txRd h hk hb => exact ⟨rfl, fun _ _ => .txRd h hk hb⟩
  | rxLen h => exact ⟨rfl, fun _ _ => .rxLen h⟩
  | rxRd h hk hb => exact ⟨rfl, fun _ _ => .rxRd h hk hb⟩
  | errRd => exact ⟨rfl, fun _ _ => .errRd⟩
  | _ => cases hi

/-- Settles O54: a read that answers OK was performed, and is performed again in the state it leaves. -/
theorem readsHaveNoSideEffect : Obligations.ReadsHaveNoSideEffect := by
  intro i s t r hi h ha
  rcases exec_next_answered h ha with ⟨e, he, -⟩ | ⟨u, hp, rfl⟩
  · cases he
  · obtain ⟨rfl, hagain⟩ := hp.of_isRead ((isRead_iff i).2 hi)
    exact ⟨rfl, (hagain .ok r).exec_eq⟩

/-- A sequence of reads, each performed in `s`, changes nothing but the list of responses. -/
theorem runCommands_reads {is : List Instr} {rs : List Response} {s : State}
    (h : List.Forall₂ (fun i (a : Response) => isRead i = true ∧ Performs i s a.status a.result s) is rs) :
    runCommands is s = .next { s with responses := s.responses ++ rs } := by
  induction is generalizing rs s with
  | nil =>
    cases h
    rw [List.append_nil]
    rfl
  | cons i is ih =>
    cases h with
    | cons hi his =>
      obtain ⟨hread, hp⟩ := hi
      rw [runCommands_cons_of_performs hp, ih (his.imp fun _ _ ⟨hr, hq⟩ => ⟨hr, (hq.of_isRead hr).2 _ _⟩),
        State.respond_responses, List.append_assoc]
      rfl

/-! ### READ_FRAME -/

/-- In an open transmit view TX_RD of an index below TXLEN is performed and answers the byte there (44_encoder.md R176). -/
theorem performs_txRd {s : State} {frame : List Byte} (hready : s.txReady = true)
    (hframe : s.txBuf.readBytes 0 s.txLen.toNat = some frame) {k : Nat} (hk : k < frame.length) :
    Performs (.txRd (BitVec.ofNat 16 k)) s .ok (byteResult frame[k]) s := by
  have hlt : k < s.txLen.toNat := Memory.readBytes_length hframe ▸ hk
  have hindex : indexOperand (BitVec.ofNat 16 k) = k := by
    have := s.txLen.isLt
    rw [indexOperand, BitVec.toNat_ofNat]
    omega
  have hbyte : s.txBuf.read k = some frame[k] := by
    rw [← List.getElem?_eq_getElem hk, ← Memory.read_of_readBytes hframe hlt, Nat.zero_add]
  exact .txRd hready (hindex.symm ▸ hlt) (hindex.symm ▸ hbyte)

/-- Settles O45: the expansion is a sequence of reads, TX_LEN and then TX_RD at each index of the frame. -/
theorem readFrameReturnsTheFrameInOrder : Obligations.ReadFrameReturnsTheFrameInOrder := by
  intro s frame hready hframe
  have hlen : frame.length = s.txLen.toNat := Memory.readBytes_length hframe
  have htxLen : Performs .txLen s .ok (s.txLen.setWidth 32) s := by
    simpa only [lengthResult, BitVec.ofNat_toNat] using Performs.txLen hready
  refine runCommands_reads (.cons ⟨rfl, htxLen⟩ ?_)
  rw [List.forall₂_iff_get]
  refine ⟨by simp [hlen], fun k _ hk => ?_⟩
  simp only [List.length_map] at hk
  simpa [isRead, byteResult] using performs_txRd hready hframe hk

end Sys2Proof.Machine
end

section
/-! SUPPORT. The ring buffer as a stream (spec/20_memory.md R53): PUSH appends and POP takes from the front, any number of times. -/

namespace Sys2Proof.Machine

/-- PUSH of every byte of a sequence that fits appends the sequence to RB (41_ring_buffer.md R101). -/
theorem runCommands_push {s : State} {bs : List Byte} (h : s.count + bs.length ≤ s.cap) :
    runCommands (bs.map .push) s =
      .next { s with rb := s.rb ++ bs, responses := s.responses ++ bs.map fun _ => ⟨.ok, 0⟩ } := by
  induction bs generalizing s with
  | nil =>
    rw [List.map_nil, List.map_nil, List.append_nil, List.append_nil]
    rfl
  | cons b bs ih =>
    rw [List.length_cons] at h
    have hfits : ((s.append b).respond .ok 0).count + bs.length ≤ ((s.append b).respond .ok 0).cap := by
      simp only [State.count, State.cap, State.respond_rb, State.append_rb, State.respond_par, State.append_par,
        List.length_append, List.length_singleton] at h ⊢
      omega
    rw [List.map_cons, runCommands_cons_of_performs (.push (by omega)), ih hfits]
    simp only [State.respond_rb, State.append_rb, State.respond_responses, State.append_responses, List.append_assoc]
    rfl

/-- POP of as many bytes as a front of RB has returns that front in order and leaves the rest (41_ring_buffer.md R102). -/
theorem runCommands_pop {s : State} {bs tail : List Byte} (h : s.rb = bs ++ tail) :
    runCommands (bs.map fun _ => .pop) s =
      .next { s with rb := tail, responses := s.responses ++ bs.map fun b => ⟨.ok, b.setWidth 32⟩ } := by
  induction bs generalizing s with
  | nil =>
    obtain rfl : s.rb = tail := h
    rw [List.map_nil, List.map_nil, List.append_nil]
    rfl
  | cons b bs ih =>
    have hrest : ((s.dropFront 1).respond .ok (byteResult b)).rb = bs ++ tail := by
      rw [State.respond_rb, State.dropFront_rb, h]
      rfl
    rw [List.map_cons, runCommands_cons_of_performs (.pop h), ih hrest]
    simp only [State.respond_responses, State.dropFront_responses, List.append_assoc]
    rfl

/-- Settles O23: the pushed sequence is RB's content, and popping takes it from the front. -/
theorem streamOrderIsFirstInFirstOut : Obligations.StreamOrderIsFirstInFirstOut := by
  refine fun s bs hfits => ⟨runCommands_push hfits, fun hempty => ?_⟩
  rw [runCommands_append (runCommands_push hfits), runCommands_pop (tail := []) (by simp [hempty]), ← hempty]

end Sys2Proof.Machine
end

section
/-! SUPPORT. What a word that encodes a command decodes to (spec/30_encoding.md R71, R77). -/

namespace Sys2Proof

theorem byteOperand_setWidth (b : Byte) : byteOperand (b.setWidth 32) = b :=
  BitVec.eq_of_toNat_eq (by simpa [byteOperand] using b.isLt)

theorem halfOperand_setWidth (h : Half) : halfOperand (h.setWidth 32) = h :=
  BitVec.eq_of_toNat_eq (by simpa [halfOperand] using h.isLt)

/-- The word of a command decodes to what the row of its opcode builds from its argument. -/
theorem decode_encode_of_row {i : Instr} {r : OpcodeRow} (hr : rowOf i.opcode = some r)
    (harg : i.arg &&& ~~~ usedMask r.form = 0) (hbuild : r.build i.arg = i) : decode (encode i) = .ok i := by
  rw [decode, opField_encode, argField_encode, hr]
  simp only [if_pos harg, hbuild]

/-- The decoder reads every command back from its word, form by form. -/
theorem decode_encode (i : Instr) : decode (encode i) = .ok i := by
  cases i with
  | push b | crcUpd b | encBegin b | encU8 b =>
    exact decode_encode_of_row rfl (byteArg_unreserved b) (congrArg _ (byteOperand_setWidth b))
  | peek k | encI16 k | txRd k | rxRd k =>
    exact decode_encode_of_row rfl (halfArg_unreserved k) (congrArg _ (halfOperand_setWidth k))
  | encF32 w => exact decode_encode_of_row rfl (wordArg_unreserved w) rfl
  | pop | size | isEmpty | clear | extract | crcClr | crcRd | encEnd | txLen | rxLen | decBegin | decU8 | decI16 | decF32
  | errRd => exact decode_encode_of_row rfl BitVec.zero_and rfl

end Sys2Proof
end

section
/-! SUPPORT. Steps over presented commands (spec/20_memory.md R61): no command reads the host's coming events or touches them, so that
a run of steps is a run of the commands. -/

namespace Sys2Proof.Machine

/-! ### No command reads `inputs` -/

/-- The same outcome, with these events still to come. -/
def withInputs (rest : List Input) : Result → Result
  | .next s => .next (s.takeInput rest)
  | .fault f => .fault f
  | .refused r => .refused r

section

variable {rest : List Input} {s : State}

/-- Both results take the same branch. -/
theorem withInputs_ite {p : Prop} [Decidable p] {a a' b b' : Result} (ht : a' = withInputs rest a)
    (he : b' = withInputs rest b) : (if p then a' else b') = withInputs rest (if p then a else b) := by
  rw [ht, he, apply_ite (withInputs rest)]

theorem encodeField_takeInput (n : Nat) (v : Word) :
    encodeField n v (s.takeInput rest) = withInputs rest (encodeField n v s) :=
  withInputs_ite rfl (withInputs_ite rfl rfl)

theorem decodeField_takeInput (n : Nat) : decodeField n (s.takeInput rest) = withInputs rest (decodeField n s) :=
  withInputs_ite rfl (withInputs_ite rfl (by
    rw [State.takeInput_rxPay, State.takeInput_decCur]
    cases s.rxPay.memRead s.decCur.toNat n <;> rfl))

theorem extractCandidate_takeInput : extractCandidate (s.takeInput rest) = withInputs rest (extractCandidate s) := by
  rw [extractCandidate, extractCandidate, State.takeInput_par, State.takeInput_rb]
  cases candidate s.par.stop s.rb <;> rfl

/-- What a command does and answers does not depend on the events to come, and it leaves them as they are. -/
theorem exec_takeInput (i : Instr) : exec i (s.takeInput rest) = withInputs rest (exec i s) := by
  cases i with
  | push b => exact withInputs_ite rfl rfl
  | pop =>
    simp only [exec, execPop, State.takeInput_rb]
    cases s.rb <;> rfl
  | peek k =>
    simp only [exec, execPeek, State.takeInput_rb]
    cases s.rb[indexOperand k]? <;> rfl
  | extract => exact extractCandidate_takeInput (s := s.endRxView.setRb (dropNoise s.par.start s.rb))
  | encU8 | encI16 | encF32 => exact encodeField_takeInput _ _
  | encEnd =>
    refine withInputs_ite rfl ?_
    simp only [State.txBufWithLenStop, State.takeInput_txBuf, State.takeInput_encLen, State.takeInput_par]
    split <;> rfl
  | txLen | rxLen => exact withInputs_ite rfl rfl
  | txRd k =>
    refine withInputs_ite rfl (withInputs_ite rfl ?_)
    rw [State.takeInput_txBuf]
    cases s.txBuf.read (indexOperand k) <;> rfl
  | rxRd k =>
    refine withInputs_ite rfl (withInputs_ite rfl ?_)
    rw [State.takeInput_rxPay]
    cases s.rxPay.read (indexOperand k) <;> rfl
  | decBegin =>
    refine withInputs_ite rfl (withInputs_ite rfl ?_)
    rw [State.takeInput_rxPay]
    cases s.rxPay.read 0 <;> rfl
  | decU8 | decI16 | decF32 => exact decodeField_takeInput _
  | size | isEmpty | clear | crcClr | crcUpd | crcRd | encBegin | errRd => rfl

end

/-! ### Steps and commands -/

/-- A step on a presented command is that command, with the events after it still to come. -/
theorem step_encode {s : State} {i : Instr} {rest : List Input} (h : s.inputs = .command (encode i) :: rest) :
    step s = exec i (s.takeInput rest) := by
  rw [step, h]
  simp only [decode_encode]

section

variable {M : Host.Core} {n : Nat} {s t : M.State}

theorem core_run_succ_of_next (h : M.step s = .next t) : M.run (n + 1) s = M.run n t := by
  rw [Host.Core.run, h]

theorem core_run_succ_of_fault {f : M.Fault} (h : M.step s = .fault f) : M.run (n + 1) s = .fault f := by
  rw [Host.Core.run, h]

theorem core_run_succ_of_refused {f : M.Refusal} (h : M.step s = .refused f) : M.run (n + 1) s = .refused f := by
  rw [Host.Core.run, h]

end

/-- Settles O8: by induction on the commands, each step performing the first of them. -/
theorem runPerformsThePresentedCommands : Obligations.RunPerformsThePresentedCommands := by
  intro is rest
  induction is with
  | nil => rintro s rfl; rfl
  | cons i is ih =>
    intro s hs
    have hfirst : exec i (s.takeInput rest) = withInputs rest (step s) := by
      rw [step_encode hs, ← exec_takeInput]
      rfl
    rw [List.length_cons, runCommands, show exec i { s with inputs := rest } = _ from hfirst]
    cases hx : step s with
    | next t =>
      obtain ⟨-, hin, -⟩ := eachRegisterIsWrittenOnlyByItsCommands i _ t (step_encode hs ▸ hx)
      exact (core_run_succ_of_next (M := core) hx).trans (ih t hin)
    | fault f => exact core_run_succ_of_fault (M := core) hx
    | refused r => exact core_run_succ_of_refused (M := core) hx

end Sys2Proof.Machine
end

section
/-! SUPPORT. The opcode map (spec/30_encoding.md R76): what its rows build, which opcodes it assigns with which form, and which words it
therefore decodes, each to the command that it encodes (R71, R73, R77, R78). -/

namespace Sys2Proof

/-! ### Fields of a word -/

/-- A word is its two fields (30_encoding.md R71). -/
theorem word_toNat (w : CommandWord) : w.toNat = (opField w).toNat * 2 ^ 32 + (argField w).toNat := by
  have := w.isLt
  simp only [opField, argField, BitVec.extractLsb'_toNat, Nat.shiftRight_eq_div_pow]
  omega

/-- The fields of a word determine it (30_encoding.md R71). -/
theorem word_ext {v w : CommandWord} (hop : opField v = opField w) (harg : argField v = argField w) : v = w :=
  BitVec.eq_of_toNat_eq (by rw [word_toNat v, word_toNat w, hop, harg])

/-- The fields of `OP * 2^32 + ARG` (30_encoding.md R71). -/
theorem fields_toNat {w : CommandWord} {op arg : Nat} (hw : w.toNat = op * 2 ^ 32 + arg) (harg : arg < 2 ^ 32) :
    (opField w).toNat = op ∧ (argField w).toNat = arg := by
  have hfields := word_toNat w
  have := (argField w).isLt
  omega

/-! ### Used and reserved bits of ARG -/

/-- How many bits of ARG a form uses (30_encoding.md R73). -/
def formWidth : Form → Nat
  | .n => 0
  | .b => 8
  | .h => 16
  | .w => 32

/-- A form uses the low bits of ARG. -/
theorem usedMask_toNat (f : Form) : (usedMask f).toNat = 2 ^ formWidth f - 1 := by
  cases f <;> rfl

/-- The used bits of ARG, as a number. -/
theorem and_usedMask_toNat (a : Word) (f : Form) : (a &&& usedMask f).toNat = a.toNat % 2 ^ formWidth f := by
  rw [BitVec.toNat_and, usedMask_toNat, Nat.and_two_pow_sub_one_eq_mod]

/-- No reserved bit of ARG is 1 exactly when ARG is its used bits. -/
theorem reserved_eq_zero_iff (a : Word) (f : Form) : a &&& ~~~ usedMask f = 0 ↔ a &&& usedMask f = a := by
  generalize usedMask f = m
  constructor
  · intro h
    calc a &&& m = (a &&& m) ||| (a &&& ~~~ m) := by rw [h]; simp
      _ = a := by rw [← BitVec.and_or_distrib_left, BitVec.or_not_self, BitVec.and_allOnes]
  · intro h
    rw [← h, BitVec.and_assoc]; simp

/-- No reserved bit of ARG is 1 exactly when ARG is a number of as many bits as the form uses (30_encoding.md R73). -/
theorem reserved_eq_zero_iff_lt (a : Word) (f : Form) : a &&& ~~~ usedMask f = 0 ↔ a.toNat < 2 ^ formWidth f := by
  rw [reserved_eq_zero_iff, ← BitVec.toNat_inj, and_usedMask_toNat, Nat.mod_eq_iff_lt (by simp)]

/-- The used bits of ARG, taken as an operand and extended with zeros again, are ARG with its reserved bits cleared. -/
theorem setWidth_operand (a : Word) (f : Form) : (a.extractLsb' 0 (formWidth f)).setWidth 32 = a &&& usedMask f := by
  apply BitVec.eq_of_toNat_eq
  rw [and_usedMask_toNat, BitVec.toNat_setWidth, BitVec.extractLsb'_toNat, Nat.shiftRight_zero]
  exact Nat.mod_eq_of_lt (Nat.lt_of_le_of_lt (Nat.mod_le _ _) a.isLt)

/-! ### Rows of the opcode map -/

/-- A row builds a command of its own opcode, whose ARG is the used bits of the ARG it was built from (30_encoding.md R73, R76). -/
def OpcodeRow.Faithful (r : OpcodeRow) : Prop := ∀ a, (r.build a).opcode = r.op ∧ (r.build a).arg = a &&& usedMask r.form

/-- Every row of the opcode map is faithful, form by form. -/
theorem opcodeMap_faithful : ∀ r ∈ opcodeMap, r.Faithful := by
  have hn (a : Word) : 0 = a &&& usedMask .n := BitVec.and_zero.symm
  have hb (a : Word) : (byteOperand a).setWidth 32 = a &&& usedMask .b := setWidth_operand a .b
  have hh (a : Word) : (halfOperand a).setWidth 32 = a &&& usedMask .h := setWidth_operand a .h
  have hw (a : Word) : a = a &&& usedMask .w := BitVec.and_allOnes.symm
  simp only [opcodeMap, List.forall_mem_cons, List.not_mem_nil, OpcodeRow.Faithful, Instr.opcode, Instr.arg,
    hb, hh, ← hn, ← hw, and_true, implies_true, false_implies]

/-- The row that an opcode selects is the row of that opcode: no opcode stands in two rows. -/
theorem rowOf_eq_some_iff {op : Byte} {r : OpcodeRow} : rowOf op = some r ↔ r ∈ opcodeMap ∧ r.op = op := by
  constructor
  · exact fun h => ⟨List.mem_of_find?_eq_some h, by simpa using List.find?_some h⟩
  · rintro ⟨hr, rfl⟩
    revert r
    simp [opcodeMap, rowOf]

/-- The ranges of opcodes that 30_encoding.md R78 leaves unassigned. -/
def Unassigned (op : Nat) : Prop :=
  op ≤ 0x0F ∨ (0x16 ≤ op ∧ op ≤ 0x1F) ∨ (0x21 ≤ op ∧ op ≤ 0x2F) ∨ (0x33 ≤ op ∧ op ≤ 0x3F) ∨
    (0x47 ≤ op ∧ op ≤ 0x4F) ∨ (0x56 ≤ op ∧ op ≤ 0x5F) ∨ (0x61 ≤ op ∧ op ≤ 0xFF)

/-- An opcode selects no row exactly in the ranges of 30_encoding.md R78. -/
theorem rowOf_eq_none_iff (op : Byte) : rowOf op = none ↔ Unassigned op.toNat := by
  simp only [rowOf, List.find?_eq_none, opcodeMap, List.forall_mem_cons, List.not_mem_nil, false_implies, implies_true,
    beq_iff_eq, ← BitVec.toNat_inj, BitVec.ofNat_eq_ofNat, BitVec.toNat_ofNat, and_true, Unassigned]
  omega

/-- The opcodes of each form (30_encoding.md R76). -/
def formOpcodes : Form → List Nat
  | .n => [0x11, 0x13, 0x14, 0x15, 0x20, 0x30, 0x32, 0x44, 0x45, 0x50, 0x52, 0x53, 0x54, 0x55, 0x60]
  | .b => [0x10, 0x31, 0x40, 0x41]
  | .h => [0x12, 0x42, 0x46, 0x51]
  | .w => [0x43]

/-- An opcode selects a row of a form exactly when it is one of that form's opcodes (30_encoding.md R76). -/
theorem exists_rowOf_form_iff (op : Byte) (f : Form) :
    (∃ r, rowOf op = some r ∧ r.form = f) ↔ op.toNat ∈ formOpcodes f := by
  simp only [rowOf_eq_some_iff, ← BitVec.toNat_inj, @eq_comm _ _ op.toNat, and_assoc]
  cases f <;> simp [opcodeMap, formOpcodes]

/-! ### What a word decodes to -/

/-- Everything the decoder can answer (30_encoding.md R77). -/
theorem decode_cases (w : CommandWord) :
    (rowOf (opField w) = none ∧ decode w = .error .illegal) ∨
    ∃ r, rowOf (opField w) = some r ∧
      ((argField w &&& ~~~ usedMask r.form = 0 ∧ decode w = .ok (r.build (argField w))) ∨
        (argField w &&& ~~~ usedMask r.form ≠ 0 ∧ decode w = .error .reserved)) := by
  cases hr : rowOf (opField w) with
  | none => exact .inl ⟨rfl, by rw [decode, hr]⟩
  | some r =>
    refine .inr ⟨r, rfl, ?_⟩
    by_cases ha : argField w &&& ~~~ usedMask r.form = 0
    · exact .inl ⟨ha, by rw [decode, hr]; exact if_pos ha⟩
    · exact .inr ⟨ha, by rw [decode, hr]; exact if_neg ha⟩

/-- ERR_ILLEGAL: the opcode is unassigned (30_encoding.md R78). -/
theorem decode_eq_illegal_iff (w : CommandWord) : decode w = .error .illegal ↔ Unassigned (opField w).toNat := by
  rw [← rowOf_eq_none_iff]
  rcases decode_cases w with ⟨hr, hd⟩ | ⟨r, hr, ⟨-, hd⟩ | ⟨-, hd⟩⟩ <;> simp [hr, hd]

/-- ERR_RESERVED: the opcode is assigned, and ARG has more bits than its form uses (30_encoding.md R73). -/
theorem decode_eq_reserved_iff (w : CommandWord) :
    decode w = .error .reserved ↔ ∃ f, (opField w).toNat ∈ formOpcodes f ∧ 2 ^ formWidth f ≤ (argField w).toNat := by
  have hrow : (∃ f, (opField w).toNat ∈ formOpcodes f ∧ 2 ^ formWidth f ≤ (argField w).toNat) ↔
      ∃ r, rowOf (opField w) = some r ∧ argField w &&& ~~~ usedMask r.form ≠ 0 := by
    simp only [← exists_rowOf_form_iff, ne_eq, reserved_eq_zero_iff_lt, not_lt]
    exact ⟨fun ⟨_, ⟨r, hr, rfl⟩, h⟩ => ⟨r, hr, h⟩, fun ⟨r, hr, h⟩ => ⟨_, ⟨r, hr, rfl⟩, h⟩⟩
  rw [hrow]
  rcases decode_cases w with ⟨hr, hd⟩ | ⟨r, hr, ⟨ha, hd⟩ | ⟨ha, hd⟩⟩
  · simp [hr, hd]
  · simp [hr, hd, ha]
  · exact iff_of_true hd ⟨r, hr, ha⟩

/-- `decode_eq_reserved_iff` with the forms written out: form W has no reserved bit. -/
theorem exists_formOpcodes_iff {op arg : Nat} (harg : arg < 2 ^ 32) :
    (∃ f, op ∈ formOpcodes f ∧ 2 ^ formWidth f ≤ arg) ↔
      (op ∈ formOpcodes .n ∧ arg ≠ 0) ∨ (op ∈ formOpcodes .b ∧ 2 ^ 8 ≤ arg) ∨ (op ∈ formOpcodes .h ∧ 2 ^ 16 ≤ arg) := by
  constructor
  · rintro ⟨f, hop, ha⟩
    cases f with
    | n => exact .inl ⟨hop, Nat.pos_iff_ne_zero.1 ha⟩
    | b => exact .inr (.inl ⟨hop, ha⟩)
    | h => exact .inr (.inr ⟨hop, ha⟩)
    | w => exact absurd harg (Nat.not_lt.2 ha)
  · rintro (⟨hop, ha⟩ | ⟨hop, ha⟩ | ⟨hop, ha⟩)
    · exact ⟨.n, hop, Nat.pos_iff_ne_zero.2 ha⟩
    · exact ⟨.b, hop, ha⟩
    · exact ⟨.h, hop, ha⟩

/-! ### Decode and encode -/

/-- Settles O1: each command's opcode selects the row that builds it from its ARG. -/
theorem decodeOfEncodeIsIdentity : Obligations.DecodeOfEncodeIsIdentity := decode_encode

/-- Settles O2: the command that a word decodes to has the word's opcode and, no reserved bit being 1, its whole ARG. -/
theorem encodeOfDecodeIsIdentity : Obligations.EncodeOfDecodeIsIdentity := by
  intro w i hi
  rcases decode_cases w with ⟨-, hd⟩ | ⟨r, hr, ⟨ha, hd⟩ | ⟨-, hd⟩⟩ <;> rw [hd] at hi <;> cases hi
  obtain ⟨hmem, hop⟩ := rowOf_eq_some_iff.1 hr
  obtain ⟨hopcode, harg⟩ := opcodeMap_faithful r hmem (argField w)
  refine word_ext ?_ ?_
  · rw [opField_encode, hopcode, hop]
  · rw [argField_encode, harg, (reserved_eq_zero_iff _ _).1 ha]

/-- Settles O3: the decoder's two refusals, on the fields of the word. -/
theorem decodeRefusesExactlyTheseWords : Obligations.DecodeRefusesExactlyTheseWords := by
  intro w op arg hw harg
  obtain ⟨rfl, rfl⟩ := fields_toNat hw harg
  refine ⟨decode_eq_illegal_iff w, (decode_eq_reserved_iff w).trans (exists_formOpcodes_iff harg), ?_⟩
  rcases decode_cases w with ⟨-, hd⟩ | ⟨r, -, ⟨-, hd⟩ | ⟨-, hd⟩⟩
  · exact .inr (.inl hd)
  · exact .inl ⟨_, hd⟩
  · exact .inr (.inr hd)

/-- Settles O4: each word is the encoding of its command. -/
theorem sampleWordsDecode : Obligations.SampleWordsDecode :=
  ⟨decode_encode (.push 0x3C), decode_encode (.peek 0xFFFF), decode_encode .extract, decode_encode (.crcUpd 0xF7),
    decode_encode (.encI16 0xFFFE), decode_encode (.encF32 0x7FC00001), decode_encode (.rxRd 254), decode_encode .decF32,
    decode_encode .errRd⟩

end Sys2Proof
end

section
/-! SUPPORT. What a step does with the word it takes: it performs the command, or signals the error of its decoding, and answers once
(spec/30_encoding.md R70, R77). -/

namespace Sys2Proof.Machine

/-- A step on a well-formed word performs its command. -/
theorem step_of_decode_ok {s : State} {w : CommandWord} {rest : List Input} {i : Instr} (hi : s.inputs = .command w :: rest)
    (hd : decode w = .ok i) : step s = exec i (s.takeInput rest) := by
  rw [step, hi]
  simp only [hd]

/-- A step on a word that the decoder refuses signals that refusal, whatever the state is. -/
theorem step_of_decode_error {s : State} {w : CommandWord} {rest : List Input} {e : ContractError}
    (hi : s.inputs = .command w :: rest) (hd : decode w = .error e) : step s = .next ((s.takeInput rest).raiseErr e) := by
  rw [step, hi]
  simp only [hd, raise]

/-- Settles O5: the only case of `step` on a well-formed word. -/
theorem stepRunsTheDecodedCommand : Obligations.StepRunsTheDecodedCommand := fun _ _ _ _ => step_of_decode_ok

/-- Settles O6: such a word decodes to ERR_ILLEGAL. -/
theorem unassignedOpcodeEndsInErrIllegal : Obligations.UnassignedOpcodeEndsInErrIllegal := by
  intro s w rest op arg hi hw harg hop
  obtain ⟨hillegal, -⟩ := decodeRefusesExactlyTheseWords w op arg hw harg
  exact step_of_decode_error hi (hillegal.2 hop)

/-- Settles O7: such a word decodes to ERR_RESERVED. -/
theorem reservedBitEndsInErrReserved : Obligations.ReservedBitEndsInErrReserved := by
  intro s w rest op arg hi hw harg hop
  obtain ⟨-, hreserved, -⟩ := decodeRefusesExactlyTheseWords w op arg hw harg
  exact step_of_decode_error hi (hreserved.2 hop)

/-- Settles O13: a contract error answers with RESULT 0, and a command that is performed answers once and is no contract error. -/
theorem everyCommandGivesOneResponse : Obligations.EveryCommandGivesOneResponse := by
  intro s t w rest hi h
  rcases step_command_next hi h with ⟨e, rfl⟩ | ⟨i, st, r, u, -, hp, rfl⟩
  · exact ⟨rfl, .error e, 0, rfl, fun _ => rfl⟩
  · obtain ⟨-, -, hin, -⟩ := hp.same
    exact ⟨hin, st, r, hp.respond_responses, fun ⟨e, he⟩ => absurd he (hp.not_error e)⟩

end Sys2Proof.Machine
end

section
/-! SUPPORT. A frame under construction (spec/44_encoder.md R170 to R174): the field commands append to its payload as long as it stays
within 255 bytes, and ENC_END closes it, whatever was tried before. -/

namespace Sys2Proof.Machine

/-- A frame is under construction and `p` is its payload so far (10_state.md R29, R30). -/
structure State.Encoding (s : State) (p : List Byte) : Prop where
  active : s.encActive = true
  length : s.encLen.toNat = p.length
  payload : s.txBuf.readBytes 2 s.encLen.toNat = some p

/-! ### One field -/

/-- A field command stores the field's value in as many bytes as the field has (44_encoder.md R171 to R173). -/
theorem exec_fieldCommand_eq_encodeField (f : Field) (s : State) :
    exec (fieldCommand f) s = encodeField (fieldBytes f).length (fieldResult f) s := by
  cases f <;> rfl

/-- The bytes of a field are its value, low byte first (20_memory.md R52). -/
theorem leBytes_fieldResult (f : Field) : leBytes (fieldBytes f).length (fieldResult f) = fieldBytes f := by
  cases f with
  | u8 b => exact congrArg ([·]) (byteOperand_setWidth b)
  | i16 h =>
    have hbyte (k : Nat) (hk : k + 8 ≤ 16) : (h.setWidth 32).extractLsb' k 8 = h.extractLsb' k 8 :=
      BitVec.eq_of_getLsbD_eq fun i hi => by simp [show k + i < 32 by omega]
    exact congrArg₂ ([·, ·]) (hbyte 0 (by decide)) (hbyte 8 (by decide))
  | f32 w => rfl

/-- A field that does not fit is refused (44_encoder.md R171 to R173). -/
theorem encodeField_ovf {n : Nat} {v : Word} {s : State} (ha : s.encActive = true) (hn : 255 < s.encLen.toNat + n) :
    encodeField n v s = .next (s.raiseErr .encOvf) := by
  simp [encodeField, ha, hn]

namespace State.Encoding

variable {s : State} {p : List Byte}

theorem respond (h : s.Encoding p) (st : Status) (r : Word) : (s.respond st r).Encoding p := ⟨h.active, h.length, h.payload⟩

theorem raiseErr (h : s.Encoding p) (e : ContractError) : (s.raiseErr e).Encoding p := ⟨h.active, h.length, h.payload⟩

theorem beginEncode (s : State) (c : Byte) : (s.beginEncode c).Encoding [c] where
  active := rfl
  length := rfl
  payload := by
    rw [Memory.readBytes_eq_some]
    refine ⟨rfl, fun k hk => ?_⟩
    obtain rfl : k = 0 := Nat.lt_one_iff.1 hk
    exact Memory.read_write_self _ 2 c

/-- A field that fits goes to the end of the payload. -/
theorem putField (h : s.Encoding p) {n : Nat} (v : Word) (hn : p.length + n ≤ 255) :
    (s.putField n v).Encoding (p ++ leBytes n v) := by
  rw [← h.length] at hn
  have hlen := encLen_putField (v := v) hn
  refine ⟨h.active, by rw [hlen, h.length, List.length_append, leBytes_length], ?_⟩
  rw [hlen, Memory.readBytes_eq_some, List.length_append, leBytes_length, h.length]
  refine ⟨rfl, fun k hk => ?_⟩
  rw [read_putField, State.fieldIndex, h.length]
  by_cases hin : k < p.length
  · rw [if_neg (by omega), List.getElem?_append_left hin, Memory.read_of_readBytes h.payload (h.length ▸ hin)]
  · rw [if_pos (by omega), List.getElem?_append_right (by omega), show 2 + k - (2 + p.length) = k - p.length by omega]

/-- A field command is answered and leaves a frame under construction: it appends the bytes of its field, or, where they do not fit,
signals ERR_ENC_OVF (44_encoder.md R171 to R173). -/
theorem exec_fieldCommand (h : s.Encoding p) (f : Field) :
    ∃ t q st, exec (fieldCommand f) s = .next t ∧ t.Encoding q ∧ t.responses = s.answered st 0 ∧
      ((st = .ok ∧ q = p ++ fieldBytes f) ∨ (st = .error .encOvf ∧ 255 < p.length + (fieldBytes f).length)) := by
  rw [exec_fieldCommand_eq_encodeField]
  rcases Nat.lt_or_ge 255 (p.length + (fieldBytes f).length) with hn | hn
  · exact ⟨_, p, _, encodeField_ovf h.active (h.length ▸ hn), h.raiseErr .encOvf, rfl, .inr ⟨rfl, hn⟩⟩
  · have hput := (h.putField (fieldResult f) hn).respond .ok 0
    rw [leBytes_fieldResult] at hput
    exact ⟨_, _, _, encodeField_ok h.active (h.length ▸ hn), hput, rfl, .inl ⟨rfl, rfl⟩⟩

/-- ENC_END is performed: every byte of the payload holds a value (44_encoder.md R174). -/
theorem performs_encEnd (h : s.Encoding p) :
    Performs .encEnd s .ok (lengthResult (4 + s.encLen.toNat)) (s.finishFrame (crc8 p)) :=
  .encEnd h.active ((readBytes_txBufWithLenStop s).trans h.payload)

end State.Encoding

/-! ### A list of fields -/

/-- Every response is OK when `fits`, and one of them is ERR_ENC_OVF when not. -/
def OkExactlyWhen (fits : Prop) (rs : List Response) : Prop :=
  (fits → ∀ r ∈ rs, r.status = .ok) ∧ (¬ fits → ∃ r ∈ rs, r.status = .error .encOvf)

theorem okExactlyWhen_cons_ok {fits : Prop} {rs : List Response} {r : Word} :
    OkExactlyWhen fits (⟨.ok, r⟩ :: rs) ↔ OkExactlyWhen fits rs := by
  simp [OkExactlyWhen]

theorem okExactlyWhen_append_ok {fits : Prop} {rs : List Response} {r : Word} :
    OkExactlyWhen fits (rs ++ [⟨.ok, r⟩]) ↔ OkExactlyWhen fits rs := by
  simp [OkExactlyWhen, or_imp, forall_and, or_and_right, exists_or]

theorem okExactlyWhen_cons_ovf {fits : Prop} (h : ¬ fits) {rs : List Response} {r : Word} :
    OkExactlyWhen fits (⟨.error .encOvf, r⟩ :: rs) :=
  ⟨fun hfits => absurd hfits h, fun _ => ⟨_, List.mem_cons_self, rfl⟩⟩

/-- Field commands in a frame under construction answer OK exactly when all their fields fit, and leave the frame under construction
either way. -/
theorem State.Encoding.runCommands_fields {s : State} {p : List Byte} (h : s.Encoding p) (fs : List Field) :
    ∃ t q rs, runCommands (fs.map fieldCommand) s = .next t ∧ t.Encoding q ∧ t.responses = s.responses ++ rs ∧
      OkExactlyWhen ((p ++ fs.flatMap fieldBytes).length ≤ 255) rs := by
  induction fs generalizing s p with
  | nil =>
    have hp : p.length ≤ 255 := h.length ▸ Nat.le_of_lt_succ s.encLen.isLt
    exact ⟨s, p, [], rfl, h, (List.append_nil _).symm, nofun, fun hn => absurd hp (by simpa using hn)⟩
  | cons f fs ih =>
    rw [List.map_cons, runCommands, List.flatMap_cons, ← List.append_assoc]
    obtain ⟨u, p', st, hx, hu, hresp, hst⟩ := h.exec_fieldCommand f
    obtain ⟨t, q, rs, hrun, ht, hrs, hok⟩ := ih hu
    rw [hresp, State.answered, List.append_assoc] at hrs
    rw [hx]
    refine ⟨t, q, _, hrun, ht, hrs, ?_⟩
    rcases hst with ⟨rfl, rfl⟩ | ⟨rfl, hn⟩
    · exact okExactlyWhen_cons_ok.2 hok
    · refine okExactlyWhen_cons_ovf ?_
      simp only [List.length_append]
      omega

/-- ENC_BEGIN, fields, ENC_END answer OK exactly when the payload has at most 255 bytes (44_encoder.md R177). -/
theorem runCommands_sendCommands (s : State) (c : Byte) (fs : List Field) :
    ∃ t rs, runCommands (sendCommands c fs) s = .next t ∧ t.responses = s.responses ++ rs ∧
      OkExactlyWhen ((payloadBytes c fs).length ≤ 255) rs := by
  have hbegin := (State.Encoding.beginEncode s c).respond .ok 0
  obtain ⟨t, q, rs, hrun, ht, hrs, (hok : OkExactlyWhen ((payloadBytes c fs).length ≤ 255) rs)⟩ := hbegin.runCommands_fields fs
  have hall := calc runCommands (sendCommands c fs) s
    _ = runCommands (fs.map fieldCommand ++ [Instr.encEnd]) ((s.beginEncode c).respond .ok 0) :=
      runCommands_cons_of_performs .encBegin _
    _ = runCommands [.encEnd] t := runCommands_append hrun _
    _ = runCommands [] _ := runCommands_cons_of_performs ht.performs_encEnd _
  refine ⟨_, ⟨.ok, 0⟩ :: (rs ++ [⟨.ok, lengthResult (4 + t.encLen.toNat)⟩]), hall, ?_,
    okExactlyWhen_cons_ok.2 (okExactlyWhen_append_ok.2 hok)⟩
  rw [ht.performs_encEnd.respond_responses, State.answered, hrs]
  simp

/-! ### The SEND pseudo-commands -/

/-- A pseudo-command that sends fields answers OK exactly within its bound, when its bound is that of a payload of 255 bytes
(30_encoding.md R82). -/
theorem runCommands_expandPseudo {q : Pseudo} {c : Byte} {fs : List Field} (hexpand : expandPseudo q = sendCommands c fs)
    (hbound : q.wellFormed = true ↔ (payloadBytes c fs).length ≤ 255) (s : State) :
    ∃ t rs, runCommands (expandPseudo q) s = .next t ∧ t.responses = s.responses ++ rs ∧
      (q.wellFormed = true → ∀ r ∈ rs, r.status = .ok) ∧
      (q.wellFormed = false → ∃ r ∈ rs, r.status = .error .encOvf) := by
  rw [hexpand, ← Bool.not_eq_true, hbound]
  exact runCommands_sendCommands s c fs

/-- Fields of `k` bytes each take `k` bytes each of the payload. -/
theorem length_flatMap_fieldBytes {α : Type} {mk : α → Field} {k : Nat} (hk : ∀ a, (fieldBytes (mk a)).length = k)
    (l : List α) : ((l.map mk).flatMap fieldBytes).length = k * l.length := by
  simp [List.length_flatMap, Function.comp_def, hk, Nat.mul_comm]

/-- Settles O44: the four expansions are streamed encodes, of fields of 1, 2 and 4 bytes after the code byte. -/
theorem sendPseudoCommandsFitExactlyWithinTheirBounds : Obligations.SendPseudoCommandsFitExactlyWithinTheirBounds := by
  have hu8 := length_flatMap_fieldBytes (mk := .u8) (k := 1) fun _ => rfl
  have hi16 := length_flatMap_fieldBytes (mk := .i16) (k := 2) fun _ => rfl
  have hf32 := length_flatMap_fieldBytes (mk := .f32) (k := 4) fun _ => rfl
  intro s q hq
  cases q with
  | sendBytes c bs | sendInts c hs | sendFloats c ws | sendBytesFloats c bs ws =>
    refine runCommands_expandPseudo rfl ?_ s
    simp only [Pseudo.wellFormed, decide_eq_true_eq, payloadBytes, List.length_cons, List.flatMap_append, List.length_append,
      hu8, hi16, hf32]
    omega
  | _ => exact hq.elim

end Sys2Proof.Machine
end

section
/-! SUPPORT. The words of commands with a byte or index operand (spec/30_encoding.md R71, R73). -/

namespace Sys2Proof

/-- A command with an operand of at most 32 bits is read back from the word that holds its opcode above that operand. -/
theorem decode_of_operand {n : Nat} {i : Instr} {base : CommandWord} {x : BitVec n} (op : Byte) (hn : n ≤ 32)
    (hop : i.opcode = op) (hbase : op.setWidth 40 <<< 32 = base) (harg : i.arg = x.setWidth 32) :
    decode (base ||| x.setWidth 40) = .ok i := by
  have hword : encode i = base ||| x.setWidth 40 := by
    rw [encode, hop, hbase, harg, BitVec.setWidth_setWidth (by omega)]
  rw [← hword, decode_encode]

end Sys2Proof
end

section
/-! SUPPORT. The ring buffer commands one by one (spec/41_ring_buffer.md R101 to R107). -/

namespace Sys2Proof.Machine

/-! ### PEEK -/

/-- PEEK past the back of RB is refused (41_ring_buffer.md R104). -/
theorem exec_peek_of_count_le {s : State} {i : Half} (h : s.count ≤ i.toNat) :
    exec (.peek i) s = .next (s.raiseErr .range) := by
  have hnone : s.rb[indexOperand i]? = none := List.getElem?_eq_none h
  simp only [exec, execPeek, hnone, raise]

/-- PEEK finds the byte that has as many bytes before it as its index says (41_ring_buffer.md R104). -/
theorem performs_peek {s : State} {i : Half} {front tail : List Byte} {b : Byte} (hrb : s.rb = front ++ b :: tail)
    (hfront : front.length = i.toNat) : Performs (.peek i) s .ok (byteResult b) s := by
  refine .peek ?_
  rw [indexOperand, ← hfront, hrb, List.getElem?_append_right le_rfl, Nat.sub_self, List.getElem?_cons_zero]

/-! ### The statements -/

/-- Settles O19: a full buffer and one that is not full are PUSH's two cases. -/
theorem pushAppendsOrRejects : Obligations.PushAppendsOrRejects := fun _ _ =>
  ⟨decode_of_operand 0x10 (by decide) rfl (by decide) rfl, fun hfull => (Performs.pushFull hfull).exec_eq,
    fun hroom => (Performs.push hroom.ne).exec_eq⟩

/-- Settles O20: an empty buffer and one with a front byte are POP's two cases. -/
theorem popRemovesTheFrontByte : Obligations.PopRemovesTheFrontByte := by
  refine fun s => ⟨decode_encode .pop, fun hempty => ?_, fun v tail hrb => ?_⟩
  · exact (Performs.popEmpty (List.length_eq_zero_iff.1 hempty)).exec_eq
  · obtain rfl : s.rb.drop 1 = tail := congrArg (List.drop 1) hrb
    exact (Performs.pop hrb).exec_eq

/-- Settles O21: an index past the back of RB and one that splits RB are PEEK's two cases. -/
theorem peekReadsALogicalOffset : Obligations.PeekReadsALogicalOffset := fun _ _ =>
  ⟨decode_of_operand 0x12 (by decide) rfl (by decide) rfl, exec_peek_of_count_le,
    fun _ _ _ hrb hfront => (performs_peek hrb hfront).exec_eq⟩

/-- Settles O22: each of the three commands has one case; ISEMPTY's flag is whether COUNT is 0. -/
theorem sizeIsEmptyAndClear : Obligations.SizeIsEmptyAndClear := by
  intro s
  have hflag : flagResult (s.count == 0) = if s.count = 0 then 1 else 0 := by simp only [flagResult, beq_iff_eq]
  exact ⟨decode_encode .size, decode_encode .isEmpty, decode_encode .clear, Performs.size.exec_eq,
    hflag ▸ Performs.isEmpty.exec_eq, Performs.clear.exec_eq⟩

end Sys2Proof.Machine
end

section
/-! SUPPORT. The algebra of the CRC8 (spec/42_crc8.md R121, R122): one turn of the loop is linear over XOR and loses no information, and so
are eight turns, one byte and a sequence of bytes. -/

namespace Sys2Proof.Machine

/-! ### One turn of the loop -/

/-- What a turn folds in: the polynomial where the output bit of `x` is 1 (42_crc8.md R121). -/
def crc8Feedback (x : Byte) : Byte := if x &&& 1 = 1 then 0x8C else 0

/-- One turn of the equivalent form, the data being in the remainder already (42_crc8.md R121). -/
def crc8Shift (x : Byte) : Byte := (x >>> 1) ^^^ crc8Feedback x

theorem crc8Feedback_eq (x : Byte) : crc8Feedback x = if x.getLsbD 0 then 0x8C else 0 := by
  rw [crc8Feedback, show x &&& 1 = _ from BitVec.and_one_eq_setWidth_ofBool_getLsbD]
  cases x.getLsbD 0 <;> rfl

theorem crc8Feedback_xor (x y : Byte) : crc8Feedback (x ^^^ y) = crc8Feedback x ^^^ crc8Feedback y := by
  simp only [crc8Feedback_eq, BitVec.getLsbD_xor]
  cases x.getLsbD 0 <;> cases y.getLsbD 0 <;> rfl

theorem crc8Shift_xor (x y : Byte) : crc8Shift (x ^^^ y) = crc8Shift x ^^^ crc8Shift y := by
  simp only [crc8Shift, crc8Feedback_xor, BitVec.ushiftRight_xor_distrib]
  ac_rfl

/-- The bit that a turn shifts out comes back as the top bit, which 0x8C sets and the shift leaves 0. -/
theorem getLsbD_seven_crc8Shift (x : Byte) : (crc8Shift x).getLsbD 7 = x.getLsbD 0 := by
  have htop : (x >>> 1).getLsbD 7 = false := by simp
  rw [crc8Shift, BitVec.getLsbD_xor, htop, crc8Feedback_eq]
  cases x.getLsbD 0 <;> rfl

/-- A turn can be undone: its top bit tells what was shifted out, and thus what was folded in. -/
theorem crc8Shift_injective : Function.Injective crc8Shift := by
  intro x y h
  have hbit : x.getLsbD 0 = y.getLsbD 0 := by rw [← getLsbD_seven_crc8Shift x, h, getLsbD_seven_crc8Shift]
  have hshift : x >>> 1 = y >>> 1 := by
    rw [crc8Shift, crc8Shift, crc8Feedback_eq, crc8Feedback_eq, hbit] at h
    exact (BitVec.xor_left_inj _).1 h
  refine BitVec.eq_of_getLsbD_eq fun i _ => ?_
  cases i with
  | zero => exact hbit
  | succ i => simpa [Nat.add_comm] using congrArg (·.getLsbD i) hshift

/-! ### One byte -/

/-- A turn of the loop on remainder and data, with its output bit taken from their XOR (42_crc8.md R121). -/
theorem crc8Bit_eq (x d : Byte) : crc8Bit (x, d) = ((x >>> 1) ^^^ crc8Feedback (x ^^^ d), d >>> 1) := by
  simp only [crc8Bit, crc8Feedback]
  split_ifs
  · rfl
  · simp

/-- Folding the data in bit by bit, or all of it before the first turn, differs by the data that is still to come. -/
theorem crc8Bits_fst (n : Nat) (x d : Byte) : (crc8Bits n (x, d)).1 = crc8Shift^[n] (x ^^^ d) ^^^ (d >>> n) := by
  induction n generalizing x d with
  | zero => simp [crc8Bits]
  | succ n ih =>
    have hturn : (x >>> 1) ^^^ crc8Feedback (x ^^^ d) ^^^ (d >>> 1) = crc8Shift (x ^^^ d) := by
      rw [crc8Shift, BitVec.ushiftRight_xor_distrib]
      ac_rfl
    rw [crc8Bits, crc8Bit_eq, ih, hturn, Function.iterate_succ_apply, ← BitVec.shiftRight_add, Nat.add_comm 1]

/-- After 8 turns no data is still to come. -/
theorem crc8Step_eq_iterate (c b : Byte) : crc8Step c b = crc8Shift^[8] (c ^^^ b) := by
  rw [crc8Step, crc8Bits_fst, BitVec.ushiftRight_eq_zero le_rfl, BitVec.xor_zero]

theorem crc8Step_xor (c d a b : Byte) : crc8Step (c ^^^ d) (a ^^^ b) = crc8Step c a ^^^ crc8Step d b := by
  have hargs : c ^^^ d ^^^ (a ^^^ b) = c ^^^ a ^^^ (d ^^^ b) := by ac_rfl
  have hlinear : Function.Semiconj₂ crc8Shift (· ^^^ ·) (· ^^^ ·) := crc8Shift_xor
  rw [crc8Step_eq_iterate, crc8Step_eq_iterate, crc8Step_eq_iterate, hargs]
  exact hlinear.iterate 8 _ _

theorem crc8Step_inj {c d a b : Byte} : crc8Step c a = crc8Step d b ↔ c ^^^ a = d ^^^ b := by
  rw [crc8Step_eq_iterate, crc8Step_eq_iterate, (crc8Shift_injective.iterate 8).eq_iff]

/-! ### A sequence of bytes -/

theorem foldl_crc8Step_xor {xs ys : List Byte} (h : xs.length = ys.length) (c d : Byte) :
    (List.zipWith (fun x y => x ^^^ y) xs ys).foldl crc8Step (c ^^^ d) = xs.foldl crc8Step c ^^^ ys.foldl crc8Step d := by
  induction xs generalizing ys c d with
  | nil =>
    obtain rfl := List.length_eq_zero_iff.1 h.symm
    rfl
  | cons x xs ih =>
    obtain ⟨y, ys, rfl⟩ := List.exists_cons_of_length_eq_add_one h.symm
    rw [List.zipWith_cons_cons, List.foldl_cons, crc8Step_xor, ih (Nat.succ.inj h)]
    rfl

/-- Whatever follows, different remainders stay different. -/
theorem foldl_crc8Step_injective (bs : List Byte) : Function.Injective fun c => bs.foldl crc8Step c := by
  induction bs with
  | nil => exact Function.injective_id
  | cons b bs ih => exact fun c d h => (BitVec.xor_left_inj _).1 (crc8Step_inj.1 (ih h))

theorem crc8_append_cons (front tail : List Byte) (a : Byte) :
    crc8 (front ++ a :: tail) = tail.foldl crc8Step (crc8Step (crc8 front) a) := by
  rw [crc8, List.foldl_append, List.foldl_cons, crc8]

/-- CRC_UPD of every byte of a sequence folds the sequence into CRCACC (42_crc8.md R124). -/
theorem runCommands_crcUpd (bs : List Byte) (s : State) :
    runCommands (bs.map .crcUpd) s =
      .next { s with crcAcc := bs.foldl crc8Step s.crcAcc, responses := s.responses ++ bs.map fun _ => ⟨.ok, 0⟩ } := by
  induction bs generalizing s with
  | nil =>
    rw [List.map_nil, List.map_nil, List.append_nil]
    rfl
  | cons b bs ih =>
    rw [List.map_cons, runCommands_cons_of_performs .crcUpd, ih, State.respond_responses, State.setCrcAcc_responses,
      List.append_assoc]
    rfl

/-! ### The statements -/

/-- Settles O26: folding the data in before the first turn is folding it in bit by bit. -/
theorem crcStepEquivalentForm : Obligations.CrcStepEquivalentForm := crc8Step_eq_iterate

/-- Settles O27: a byte 00 keeps the remainder 00, and two remainders of 00 are their own XOR. -/
theorem crcIsLinear : Obligations.CrcIsLinear := by
  refine ⟨fun n => ?_, fun xs ys h => foldl_crc8Step_xor h 0x00 0x00⟩
  induction n with
  | zero => rfl
  | succ n ih => exact ih

/-- Settles O28: the byte in error makes the remainders differ, and what follows keeps them different. -/
theorem crcDetectsAnErrorInOneByte : Obligations.CrcDetectsAnErrorInOneByte := by
  intro front tail a b hab h
  rw [crc8_append_cons, crc8_append_cons] at h
  exact hab ((BitVec.xor_right_inj _).1 (crc8Step_inj.1 (foldl_crc8Step_injective tail h)))

/-- Settles O25: CRC_CLR puts the seed of crc8 into CRCACC, and CRC_UPD folds from there. -/
theorem crcAccumulatesTheFunction : Obligations.CrcAccumulatesTheFunction := by
  refine fun s b bs => ⟨decode_of_operand 0x31 (by decide) rfl (by decide) rfl, Performs.crcUpd.exec_eq, ?_⟩
  rw [runCommands_cons_of_performs .crcClr, runCommands_crcUpd]
  exact ⟨_, rfl, rfl⟩

/-- Settles O24: each of the two commands has one case. -/
theorem crcClearAndRead : Obligations.CrcClearAndRead := fun _ =>
  ⟨decode_encode .crcClr, decode_encode .crcRd, Performs.crcClr.exec_eq, Performs.crcRd.exec_eq⟩

end Sys2Proof.Machine
end

section
/-! SUPPORT. The frame parser (spec/43_frame_parser.md): when EXTRACT waits, when it takes a frame, what it removes from RB (R151), and
what follows for a buffer that is drained or full (spec/70_reset_and_hazards.md R262). -/

namespace Sys2Proof.Machine

/-! ### Waiting -/

/-- A waiting RB has no noise to discard (43_frame_parser.md R151). -/
theorem front_of_waiting {start : Byte} {rb : List Byte} (h : waiting start rb = true) :
    rb = [] ∨ ∃ tail, rb = start :: tail := by
  match rb with
  | [] => exact .inl rfl
  | [a] => exact .inr ⟨[], by simpa [waiting] using h⟩
  | a :: l :: tail =>
    obtain ⟨rfl, -⟩ : a = start ∧ _ := by simpa [waiting] using h
    exact .inr ⟨_, rfl⟩

theorem dropNoise_of_waiting {start : Byte} {rb : List Byte} (h : waiting start rb = true) : dropNoise start rb = rb :=
  dropNoise_append (noise := []) (by simp) (front_of_waiting h)

/-- Once the noise is gone, RB is waiting exactly when steps 3 and 5 find too few bytes (43_frame_parser.md R142, R143). -/
theorem waiting_iff_candidate {start stop : Byte} {rb : List Byte} (h : rb = [] ∨ ∃ tail, rb = start :: tail) :
    waiting start rb = true ↔ candidate stop rb = .waiting := by
  rcases h with rfl | ⟨tail, rfl⟩
  · exact iff_of_true rfl rfl
  rcases tail with - | ⟨l, tail⟩
  · exact iff_of_true (beq_self_eq_true start) rfl
  by_cases hshort : tail.length + 2 < 4 + l.toNat
  · exact iff_of_true (by simp [waiting, hshort]) (candidate_of_short hshort)
  · obtain ⟨p, x, c, tail', rfl, hp⟩ := complete_of_length (Nat.le_of_not_lt hshort)
    refine iff_of_false (by simp only [waiting, hshort, decide_false, Bool.and_false]; decide) ?_
    rw [candidate_of_complete hp]
    split_ifs <;> nofun

theorem candidate_of_waiting {start stop : Byte} {rb : List Byte} (h : waiting start rb = true) :
    candidate stop (dropNoise start rb) = .waiting := by
  rw [dropNoise_of_waiting h]
  exact (waiting_iff_candidate (front_of_waiting h)).1 h

/-- No candidate needs more than 259 bytes, its length being a byte (70_reset_and_hazards.md R262). -/
theorem length_lt_of_waiting {start : Byte} {rb : List Byte} (h : waiting start rb = true) : rb.length < 259 := by
  match rb with
  | [] | [_] => simp
  | a :: l :: tail =>
    obtain ⟨-, hshort⟩ : a = start ∧ tail.length + 2 < 4 + l.toNat := by simpa [waiting] using h
    have := l.isLt
    simp only [List.length_cons]
    omega

/-! ### The candidate -/

/-- Steps 3 to 8 find a frame exactly under the acceptance condition (43_frame_parser.md R150). -/
theorem candidate_frame_iff {stop l : Byte} {rb : List Byte} :
    (∃ p, candidate stop rb = .frame l p) ↔
      rb[1]? = some l ∧ 4 + l.toNat ≤ rb.length ∧ rb[2 + l.toNat]? = some stop ∧
        rb[3 + l.toNat]? = some (crc8 (candidatePayload l rb)) := by
  match rb with
  | [] | [_] => simp [candidate]
  | a :: l' :: tail =>
    constructor
    · rintro ⟨p, h⟩
      simp only [candidate] at h
      split_ifs at h with hshort hstop hcrc
      cases h
      exact ⟨rfl, Nat.le_of_not_lt hshort, hstop, hcrc⟩
    · rintro ⟨hl, hlen, hstop, hcrc⟩
      obtain rfl : l' = l := by simpa using hl
      exact ⟨_, by rw [candidate, if_neg (Nat.not_lt.2 hlen), if_pos hstop, if_pos hcrc]⟩

/-- Where steps 3 to 8 do not wait, the noise ends at a START byte. -/
theorem dropNoise_eq_cons {start stop : Byte} {rb : List Byte} {c : Candidate} (h : candidate stop (dropNoise start rb) = c)
    (hc : c ≠ .waiting) : ∃ tail, dropNoise start rb = start :: tail := by
  obtain ⟨-, -, -, hempty | hstart⟩ := dropNoise_spec start rb
  · rw [hempty] at h
    exact absurd h.symm hc
  · exact hstart

/-! ### One EXTRACT -/

/-- EXTRACT on a waiting RB ends the view and changes nothing else. -/
theorem performs_extract_of_waiting {s : State} (h : waiting s.par.start s.rb = true) :
    Performs .extract s .noFrame 0 s.endRxView := by
  have hp : Performs .extract s .noFrame 0 (s.endRxView.setRb (dropNoise s.par.start s.rb)) :=
    .extractWaiting (candidate_of_waiting h)
  rwa [dropNoise_of_waiting h] at hp

/-- EXTRACT on noise and then a valid frame leaves what follows the frame (43_frame_parser.md R145, R146). -/
theorem performs_extract_of_frame {s : State} {l : Byte} {p tail : List Byte}
    (h : dropNoise s.par.start s.rb = s.par.start :: l :: (p ++ s.par.stop :: crc8 p :: tail)) (hp : p.length = l.toNat) :
    Performs .extract s .frame (byteResult l) ((s.endRxView.setRb tail).copyPayload l p).openRxView := by
  have hc : candidate s.par.stop (dropNoise s.par.start s.rb) = .frame l p := by
    rw [h, candidate_of_complete hp, if_pos rfl, if_pos rfl]
  have htail : (dropNoise s.par.start s.rb).drop (4 + l.toNat) = tail := by
    rw [h, ← hp, show 4 + p.length = p.length + 2 + 1 + 1 by omega, List.drop_succ_cons, List.drop_succ_cons,
      List.drop_length_add_append]
    rfl
  rw [← htail]
  exact .extractFrame hc

/-- What RXPAY reads as after a payload is copied (43_frame_parser.md R145). -/
theorem read_copyPayload {s : State} {l : Byte} {p : List Byte} (hp : p.length = l.toNat) (a : Nat) :
    (s.copyPayload l p).rxPay.read a = if a < l.toNat then p[a]? else s.rxPay.read a := by
  simp [Memory.read_writeBytes, hp]

/-- A byte result tells its byte: the operand of `b.setWidth 32` is `b`. -/
theorem byteResult_inj {a b : Byte} : byteResult a = byteResult b ↔ a = b :=
  (Function.LeftInverse.injective byteOperand_setWidth).eq_iff

section

variable {s u : State} {st : Status} {r : Word}

/-- EXTRACT answers FRAME, L exactly when it finds a frame of length L. -/
theorem Performs.extract_frame_iff (h : Performs .extract s st r u) (l : Byte) :
    st = .frame ∧ r = byteResult l ↔ ∃ p, candidate s.par.stop (dropNoise s.par.start s.rb) = .frame l p := by
  cases h with
  | extractWaiting hc | extractWrongStop hc | extractBadCrc hc => simp [hc]
  | @extractFrame _ l' p hc =>
    simp [hc, byteResult_inj]

/-- What EXTRACT removes after the noise: a whole frame, the START byte, or nothing, and then RB is waiting
(43_frame_parser.md R151). -/
theorem Performs.extract_progress (h : Performs .extract s st r u) :
    (∃ l : Byte, st = .frame ∧ r = byteResult l ∧ (∃ tail, dropNoise s.par.start s.rb = s.par.start :: tail) ∧
      4 + l.toNat ≤ (dropNoise s.par.start s.rb).length ∧ u.rb = (dropNoise s.par.start s.rb).drop (4 + l.toNat)) ∨
    (st = .noFrame ∧ r = 0 ∧ dropNoise s.par.start s.rb = s.par.start :: u.rb) ∨
    (st = .noFrame ∧ r = 0 ∧ u.rb = dropNoise s.par.start s.rb ∧ waiting s.par.start u.rb = true) := by
  cases h with
  | extractWaiting hc =>
    obtain ⟨-, -, -, hfront⟩ := dropNoise_spec s.par.start s.rb
    exact .inr (.inr ⟨rfl, rfl, rfl, (waiting_iff_candidate hfront).2 hc⟩)
  | extractWrongStop hc | extractBadCrc hc =>
    obtain ⟨tail, htail⟩ := dropNoise_eq_cons hc nofun
    refine .inr (.inl ⟨rfl, rfl, ?_⟩)
    simp [htail]
  | extractFrame hc =>
    obtain ⟨-, hlen, -⟩ := candidate_frame_iff.1 ⟨_, hc⟩
    exact .inl ⟨_, rfl, rfl, dropNoise_eq_cons hc nofun, hlen, rfl⟩

/-- EXTRACT takes bytes from RB or leaves it waiting (43_frame_parser.md R151). -/
theorem Performs.extract_waiting_or_lt (h : Performs .extract s st r u) :
    waiting s.par.start u.rb = true ∨ u.count < s.count := by
  have hle := dropNoise_length_le s.par.start s.rb
  rcases h.extract_progress with ⟨l, -, -, -, hlen, hrb⟩ | ⟨-, -, hrb⟩ | ⟨-, -, -, hw⟩
  · refine .inr ?_
    rw [State.count, State.count, hrb, List.length_drop]
    omega
  · rw [hrb] at hle
    exact .inr hle
  · exact .inl hw

end

/-! ### The statements about one EXTRACT -/

/-- Settles O30: the response says what the candidate is, and the candidate is a frame under the acceptance condition. -/
theorem frameAcceptedExactlyWhenComplete : Obligations.FrameAcceptedExactlyWhenComplete := by
  intro s
  obtain ⟨st, r, u, hp, hx⟩ := exec_extract_performs s
  refine ⟨_, hx, ?_, ?_⟩
  · simp only [hp.respond_responses, State.answered_inj]
    rcases hp.extract_progress with ⟨l, rfl, rfl, -⟩ | ⟨rfl, rfl, -⟩ | ⟨rfl, rfl, -⟩
    · exact .inl ⟨l, rfl, rfl⟩
    · exact .inr ⟨rfl, rfl⟩
    · exact .inr ⟨rfl, rfl⟩
  · rintro _ rfl l
    have hiff := (hp.extract_frame_iff l).trans candidate_frame_iff
    rw [hp.respond_responses, State.answered_inj]
    refine hiff.trans ⟨fun h => ⟨?_, h⟩, fun ⟨_, h⟩ => h⟩
    obtain ⟨p, hc⟩ := candidate_frame_iff.2 h
    obtain ⟨tail, htail⟩ := dropNoise_eq_cons hc nofun
    exact congrArg (·[0]?) htail

/-- Settles O31: the noise is what EXTRACT always removes, and `extract_progress` says what it removes after it. -/
theorem extractProgressLaw : Obligations.ExtractProgressLaw := by
  intro s
  obtain ⟨st, r, u, hp, hx⟩ := exec_extract_performs s
  obtain ⟨noise, hrb, hnoise, -⟩ := dropNoise_spec s.par.start s.rb
  have hprogress := hp.extract_progress
  generalize dropNoise s.par.start s.rb = rest at hrb hprogress
  have hdrop (j : Nat) : s.rb.drop (noise.length + j) = rest.drop j := by rw [hrb, List.drop_length_add_append]
  have hstart {tail : List Byte} (h : rest = s.par.start :: tail) : s.rb[noise.length]? = some s.par.start := by
    simp [hrb, h]
  have hcount : s.count = noise.length + rest.length := by rw [State.count, hrb, List.length_append]
  refine ⟨_, noise.length, hx, by omega, by rwa [hrb, List.take_left], ?_⟩
  rw [hp.respond_responses, State.respond_rb]
  rcases hprogress with ⟨l, rfl, rfl, ⟨tail, htail⟩, hlen, hu⟩ | ⟨rfl, rfl, hu⟩ | ⟨rfl, rfl, hu, hw⟩
  · exact .inl ⟨hstart htail, l, rfl, by omega, by rw [Nat.add_assoc, hdrop, hu]⟩
  · exact .inr (.inl ⟨hstart hu, rfl, by rw [hdrop, hu]; rfl⟩)
  · exact .inr (.inr ⟨rfl, hu.trans (hdrop 0).symm, hw⟩)

/-- Settles O29: the four cases of the candidate, once the noise is gone. -/
theorem extractFollowsTheNineSteps : Obligations.ExtractFollowsTheNineSteps := by
  refine fun s noise rest => ⟨decode_encode .extract, fun hrb hnoise => ?_⟩
  have hdrop (hfront : rest = [] ∨ ∃ tail, rest = s.par.start :: tail) : dropNoise s.par.start s.rb = rest :=
    hrb ▸ dropNoise_append hnoise hfront
  refine ⟨fun hw => ?_, fun l p x c tail hrest hp => ?_⟩
  · obtain rfl := hdrop (front_of_waiting hw)
    obtain ⟨-, -, -, hfront⟩ := dropNoise_spec s.par.start s.rb
    exact (Performs.extractWaiting ((waiting_iff_candidate hfront).1 hw)).exec_eq
  · obtain rfl := hdrop (.inr ⟨_, hrest⟩)
    have hcand := congrArg (candidate s.par.stop) hrest
    rw [candidate_of_complete hp] at hcand
    refine ⟨fun hx => ?_, fun hx hc => ?_, fun hx hc => ?_⟩
    · rw [if_neg hx] at hcand
      exact (Performs.extractWrongStop hcand).exec_eq
    · rw [if_pos hx, if_neg hc] at hcand
      exact ⟨_, (Performs.extractBadCrc hcand).exec_eq, read_copyPayload hp, rfl⟩
    · subst hx hc
      exact ⟨_, (performs_extract_of_frame hrest hp).exec_eq, read_copyPayload hp, rfl⟩

/-- Settles O33: a frame with an empty payload, whose crc8 is the seed 00, and then a view of length 0. -/
theorem emptyPayloadFrameIsValid : Obligations.EmptyPayloadFrameIsValid := by
  intro s tail hrb
  have hnoise : dropNoise s.par.start s.rb = s.par.start :: 0x00 :: ([] ++ s.par.stop :: crc8 [] :: tail) :=
    hrb.symm ▸ dropNoise_append (noise := []) (by simp) (.inr ⟨_, rfl⟩)
  have hx := (performs_extract_of_frame hnoise rfl).exec_eq
  refine ⟨hx, fun t ht => ?_⟩
  obtain rfl : _ = t := by simpa using hx.symm.trans ht
  rfl

/-! ### Draining RB -/

/-- Any number of EXTRACT commands on a waiting RB (43_frame_parser.md R151). -/
theorem runCommands_extract_of_waiting {s : State} (h : waiting s.par.start s.rb = true) (n : Nat) :
    runCommands (List.replicate n .extract) s = .next { s with
      rxValid := if n = 0 then s.rxValid else false
      responses := s.responses ++ List.replicate n ⟨.noFrame, 0⟩ } := by
  induction n generalizing s with
  | zero =>
    rw [List.replicate_zero, List.replicate_zero, List.append_nil]
    rfl
  | succ n ih =>
    rw [List.replicate_succ, runCommands_cons_of_performs (performs_extract_of_waiting h),
      ih (s := s.endRxView.respond .noFrame 0) h]
    simp [List.replicate_succ, State.respond, State.endRxView]

/-- At least as many EXTRACT commands as RB holds bytes leave it waiting: each takes a byte until it is. -/
theorem runCommands_extract_drains {s : State} {n : Nat} (h : s.count ≤ n) :
    ∃ t, runCommands (List.replicate n .extract) s = .next t ∧ t.par = s.par ∧ waiting s.par.start t.rb = true := by
  induction n generalizing s with
  | zero =>
    have hempty : s.rb = [] := List.length_eq_zero_iff.1 (Nat.le_zero.1 h)
    exact ⟨s, rfl, rfl, by rw [hempty]; rfl⟩
  | succ n ih =>
    obtain ⟨st, r, u, hp, -⟩ := exec_extract_performs s
    obtain ⟨hpar, -⟩ := hp.same
    rw [List.replicate_succ, runCommands_cons_of_performs hp, ← hpar]
    rcases hp.extract_waiting_or_lt with hw | hlt
    · rw [← hpar] at hw
      exact ⟨_, runCommands_extract_of_waiting (s := u.respond st r) hw n, rfl, hw⟩
    · exact ih (s := u.respond st r) (Nat.le_of_lt_succ (Nat.lt_of_lt_of_le hlt h))

/-- Settles O32: RB is drained, and then EXTRACT finds it waiting every time. -/
theorem drainLeavesRbWaiting : Obligations.DrainLeavesRbWaiting := by
  intro s
  obtain ⟨t, hrun, hpar, hw⟩ := runCommands_extract_drains (le_refl s.count)
  exact ⟨t, hrun, hw, runCommands_extract_of_waiting (hpar ▸ hw)⟩

/-! ### Capacity -/

/-- While RB is waiting, only POP and CLEAR take bytes from it (70_reset_and_hazards.md R262). -/
theorem Performs.rb_of_waiting {i : Instr} {s u : State} {st : Status} {r : Word} (h : Performs i s st r u)
    (hw : waiting s.par.start s.rb = true) (hpop : i ≠ .pop) (hclear : i ≠ .clear) :
    u.rb = s.rb ∨ s.count ≠ s.cap ∧ ∃ b, u.rb = s.rb ++ [b] := by
  have hcand : candidate s.par.stop (dropNoise s.par.start s.rb) = .waiting := candidate_of_waiting hw
  cases h with
  | push hroom => exact .inr ⟨hroom, _, rfl⟩
  | popEmpty | pop => exact absurd rfl hpop
  | clear => exact absurd rfl hclear
  | extractWaiting => exact .inl (dropNoise_of_waiting hw)
  | extractWrongStop hc | extractBadCrc hc | extractFrame hc => exact absurd (hcand.symm.trans hc) nofun
  | _ => exact .inl rfl

/-- No command but POP and CLEAR takes a waiting RB's front away, or fills it beyond CAP. -/
theorem exec_rb_of_waiting {i : Instr} {s t : State} (h : exec i s = .next t) (hw : waiting s.par.start s.rb = true)
    (hcap : s.count ≤ s.cap) (hpop : i ≠ .pop) (hclear : i ≠ .clear) :
    t.par = s.par ∧ t.count ≤ t.cap ∧ ∃ more, t.rb = s.rb ++ more := by
  rcases exec_next h with ⟨e, rfl⟩ | ⟨st, r, u, hp, rfl⟩
  · exact ⟨rfl, hcap, [], (List.append_nil _).symm⟩
  · obtain ⟨hpar, -⟩ := hp.same
    rw [State.count, State.cap, State.respond_par, State.respond_rb, hpar]
    refine ⟨rfl, ?_⟩
    rcases hp.rb_of_waiting hw hpop hclear with hrb | ⟨hroom, b, hrb⟩
    · rw [hrb]
      exact ⟨hcap, [], (List.append_nil _).symm⟩
    · rw [hrb, List.length_append]
      exact ⟨Nat.lt_of_le_of_ne hcap hroom, [b], rfl⟩

/-- Settles O35: a candidate that cannot fit waits for ever, and no candidate needs more than 259 bytes. -/
theorem capacityLivelockOnlyBelow259 : Obligations.CapacityLivelockOnlyBelow259 := by
  refine fun s hcap => ⟨fun l tail hrb hlong => ?_, fun hlarge hfull => ?_⟩
  · have hw : waiting s.par.start s.rb = true := by
      have hshort : tail.length + 2 < 4 + l.toNat := by
        rw [State.count, hrb] at hcap
        exact Nat.lt_of_le_of_lt hcap hlong
      simp [hrb, waiting, hshort]
    refine ⟨(performs_extract_of_waiting hw).exec_eq, fun hfull b => (Performs.pushFull hfull).exec_eq,
      fun i t hpop hclear hx => ?_⟩
    obtain ⟨hpar, hle, more, hmore⟩ := exec_rb_of_waiting hx hw hcap hpop hclear
    exact ⟨hpar, hle, tail ++ more, by rw [hmore, hrb]; rfl⟩
  · obtain ⟨st, r, u, hp, hx⟩ := exec_extract_performs s
    have hlt : u.count < s.count := by
      rcases hp.extract_waiting_or_lt with hw | hlt
      · exact (length_lt_of_waiting hw).trans_le (hfull ▸ hlarge)
      · exact hlt
    have hroom : u.count ≠ u.cap := by
      obtain ⟨hpar, -⟩ := hp.same
      rw [State.cap, hpar]
      exact (hlt.trans_le hcap).ne
    exact ⟨_, hx, hlt, fun b => (Performs.push (s := u.respond st r) hroom).exec_eq⟩

end Sys2Proof.Machine
end

section
/-! SUPPORT. The encoder commands one by one (spec/44_encoder.md R170 to R176). -/

namespace Sys2Proof.Machine

/-! ### Writes to TXBUF -/

/-- A read after a write of consecutive bytes, the first byte told apart. -/
theorem Memory.read_writeBytes_cons (m : Memory) (a x : Nat) (b : Byte) (bs : List Byte) :
    (m.writeBytes a (b :: bs)).read x = if x = a then some b else (m.writeBytes (a + 1) bs).read x := by
  rw [Memory.writeBytes, Memory.read_writeBytes, Memory.read_writeBytes]
  by_cases hx : x = a
  · subst hx
    rw [if_neg (by omega), if_pos rfl, Memory.read_write_self]
  · rw [if_neg hx, Memory.read_write_ne m b hx]

/-- TXBUF after ENC_BEGIN (44_encoder.md R170). -/
theorem read_beginEncode (s : State) (c : Byte) (a : Nat) :
    (s.beginEncode c).txBuf.read a = if a = 0 then some s.par.start else if a = 2 then some c else s.txBuf.read a := by
  rw [State.beginEncode_txBuf, Memory.read_write, Memory.read_write]
  exact ite_ite_comm (a = 2) (a = 0) _ _ (by omega)

/-- A field goes to TXBUF as its bytes, from `2 + ENC_LEN` on (44_encoder.md R171 to R173). -/
theorem txBuf_putField (s : State) (f : Field) :
    (s.putField (fieldBytes f).length (fieldResult f)).txBuf = s.txBuf.writeBytes s.fieldIndex (fieldBytes f) := by
  rw [State.putField_txBuf, Memory.memWrite, leBytes_fieldResult]

/-! ### Field commands -/

/-- Without a frame under construction a field command is out of sequence (44_encoder.md R171 to R173). -/
theorem exec_fieldCommand_seq {s : State} (f : Field) (ha : s.encActive = false) :
    exec (fieldCommand f) s = .next (s.raiseErr .seq) := by
  rw [exec_fieldCommand_eq_encodeField, encodeField, if_pos ha, raise]

/-- A field that would make the payload longer than 255 bytes is refused (44_encoder.md R171 to R173). -/
theorem exec_fieldCommand_ovf {s : State} (f : Field) (ha : s.encActive = true)
    (hn : 255 < s.encLen.toNat + (fieldBytes f).length) : exec (fieldCommand f) s = .next (s.raiseErr .encOvf) :=
  (exec_fieldCommand_eq_encodeField f s).trans (encodeField_ovf ha hn)

/-- A field that fits is appended to the payload (44_encoder.md R171 to R173). -/
theorem exec_fieldCommand_ok {s : State} (f : Field) (ha : s.encActive = true)
    (hn : s.encLen.toNat + (fieldBytes f).length ≤ 255) :
    exec (fieldCommand f) s = .next { s with
      txBuf := s.txBuf.writeBytes s.fieldIndex (fieldBytes f)
      encLen := s.encLen + BitVec.ofNat 8 (fieldBytes f).length
      responses := s.answered .ok 0 } := by
  rw [exec_fieldCommand_eq_encodeField, encodeField_ok ha hn, ← txBuf_putField]
  rfl

/-! ### The statements about building a frame -/

/-- Settles O37: ENC_BEGIN has one case. -/
theorem encBeginStartsAFrame : Obligations.EncBeginStartsAFrame := fun s b =>
  ⟨decode_of_operand 0x40 (by decide) rfl (by decide) rfl, _, Performs.encBegin.exec_eq, read_beginEncode s b, rfl⟩

/-- Settles O38: the three cases of a field command, for a field of one byte. -/
theorem encU8AppendsAByteField : Obligations.EncU8AppendsAByteField := fun s b =>
  ⟨decode_of_operand 0x41 (by decide) rfl (by decide) rfl, exec_fieldCommand_seq (.u8 b), exec_fieldCommand_ovf (.u8 b),
    fun ha hn => ⟨_, exec_fieldCommand_ok (.u8 b) ha hn, fun a => Memory.read_writeBytes_cons s.txBuf _ a b [], rfl⟩⟩

/-- Settles O39: the three cases of a field command, for a field of two bytes. -/
theorem encI16AppendsTwoBytesLowFirst : Obligations.EncI16AppendsTwoBytesLowFirst := by
  refine fun s h => ⟨decode_of_operand 0x42 (by decide) rfl (by decide) rfl, exec_fieldCommand_seq (.i16 h),
    fun ha hn => exec_fieldCommand_ovf (.i16 h) ha (Nat.add_le_add_right hn 2),
    fun ha hn => ⟨_, exec_fieldCommand_ok (.i16 h) ha hn, fun a => ?_, rfl⟩⟩
  simp only [fieldBytes, Memory.read_writeBytes_cons]
  rfl

/-- Settles O40: the three cases of a field command, for a field of four bytes. -/
theorem encF32AppendsFourBytesLowFirst : Obligations.EncF32AppendsFourBytesLowFirst := by
  refine fun s w => ⟨?_, exec_fieldCommand_seq (.f32 w),
    fun ha hn => exec_fieldCommand_ovf (.f32 w) ha (Nat.add_le_add_right hn 4),
    fun ha hn => ⟨_, exec_fieldCommand_ok (.f32 w) ha hn, fun a => ?_, rfl⟩⟩
  · exact decode_of_operand 0x43 (by decide) rfl (by decide) (BitVec.setWidth_eq w).symm
  · simp only [fieldBytes, Memory.read_writeBytes_cons]
    rfl

/-- Settles O41: without a frame under construction, and with one whose payload is `p`. -/
theorem encEndCompletesTheFrame : Obligations.EncEndCompletesTheFrame := by
  refine fun s => ⟨decode_encode .encEnd, fun ha => if_pos ha, fun p ha hpos hp => ?_⟩
  refine ⟨_, (Performs.encEnd ha ((readBytes_txBufWithLenStop s).trans hp)).exec_eq, fun a => ?_, rfl⟩
  rw [State.respond_txBuf, read_finishFrame]
  by_cases h1 : a = 1
  · rw [if_neg (by omega), if_neg (by omega), if_pos h1, if_pos h1]
  · rw [if_neg h1, if_neg h1]
    exact ite_ite_comm (a = 3 + s.encLen.toNat) (a = 2 + s.encLen.toNat) _ _ (by omega)

/-! ### The transmit view -/

/-- TX_LEN and TX_RD without a complete frame are out of sequence (44_encoder.md R175, R176). -/
theorem exec_txRead_seq {s : State} {i : Half} (h : s.txReady = false) :
    ∀ j ∈ [Instr.txLen, Instr.txRd i], exec j s = .next (s.raiseErr .seq) := by
  simp [exec, execTxLen, execTxRd, h, raise]

/-- TX_RD past the end of the frame is refused (44_encoder.md R176). -/
theorem exec_txRd_range {s : State} {i : Half} (h : s.txReady = true) (hi : s.txLen.toNat ≤ i.toNat) :
    exec (.txRd i) s = .next (s.raiseErr .range) := by
  simp [exec, execTxRd, h, indexOperand, hi, raise]

/-- TX_LEN answers TXLEN, zero-extended (44_encoder.md R175). -/
theorem performs_txLen {s : State} (h : s.txReady = true) : Performs .txLen s .ok (s.txLen.setWidth 32) s := by
  simpa only [lengthResult, BitVec.ofNat_toNat] using Performs.txLen h

/-- Settles O42: without a complete frame both end in ERR_SEQ; with one, TX_LEN reads its length and TX_RD a byte below it. -/
theorem txLenAndTxRdReadTheFrame : Obligations.TxLenAndTxRdReadTheFrame := fun _ _ =>
  ⟨decode_encode .txLen, decode_of_operand 0x46 (by decide) rfl (by decide) rfl, exec_txRead_seq,
    fun h => (performs_txLen h).exec_eq, exec_txRd_range, fun _ h hi hb => (Performs.txRd h hi hb).exec_eq⟩

end Sys2Proof.Machine
end

section
/-! SUPPORT. The encoder and the receive side are independent (spec/44_encoder.md R178): what an encoder command does to a state is
what it does to the transmit side of that state alone, and what any other command does is what it does to the rest. -/

namespace Sys2Proof.Machine

/-! ### What a command leaves as it was -/

/-- No other command writes the transmit side (44_encoder.md R178). -/
theorem Performs.sameTxSide {i : Instr} {s u : State} {st : Status} {r : Word} (h : Performs i s st r u)
    (hi : isEncoder i = false) : SameTxSide s u := by
  cases h with
  | encBegin | encU8 | encI16 | encF32 | encEnd | txLen | txRd => cases hi
  | _ => exact ⟨rfl, rfl, rfl, rfl, rfl, rfl⟩

/-- No encoder command writes the receive side or CRCACC (44_encoder.md R178). -/
theorem Performs.sameRxSide {i : Instr} {s u : State} {st : Status} {r : Word} (h : Performs i s st r u)
    (hi : isEncoder i = true) : SameRxSide s u ∧ u.crcAcc = s.crcAcc := by
  cases h with
  | encBegin | encU8 | encI16 | encF32 | encEnd | txLen | txRd => exact ⟨⟨rfl, rfl, rfl, rfl, rfl, rfl⟩, rfl⟩
  | _ => cases hi

/-! ### Two states put together -/

/-- `f` on the state that a command ends in. -/
def mapNext (f : State → State) : Result → Result
  | .next t => .next (f t)
  | .fault e => .fault e
  | .refused e => .refused e

/-- The transmit side of `t` with the rest of `s`: the contract errors and responses of `t` come after those of `s`. -/
def State.withTxOf (s t : State) : State :=
  { s with
    par := t.par
    encActive := t.encActive
    encLen := t.encLen
    txBuf := t.txBuf
    txReady := t.txReady
    txLen := t.txLen
    errFlags := s.errFlags ||| t.errFlags
    responses := s.responses ++ t.responses }

/-- The receive side, CRCACC and ERRFLAGS of `t` with the rest of `s`: the responses of `t` come after those of `s`. -/
def State.withRxOf (s t : State) : State :=
  { s with
    par := t.par
    rb := t.rb
    crcAcc := t.crcAcc
    rxValid := t.rxValid
    rxLen := t.rxLen
    rxPay := t.rxPay
    decCur := t.decCur
    errFlags := t.errFlags
    responses := s.responses ++ t.responses }

section

variable {f : State → State}

theorem mapNext_eq_next {x : Result} {t : State} (h : mapNext f x = .next t) : ∃ v, x = .next v ∧ t = f v := by
  cases x with
  | next v => exact ⟨v, rfl, by cases h; rfl⟩
  | fault e => cases h
  | refused e => cases h

/-- Both results take the same branch. -/
theorem mapNext_ite {p : Prop} [Decidable p] {a a' b b' : Result} (ht : a' = mapNext f a) (he : b' = mapNext f b) :
    (if p then a' else b') = mapNext f (if p then a else b) := by
  rw [ht, he, apply_ite (mapNext f)]

end

section

variable {i : Instr} (s t : State)

/-! ### The encoder commands act on the transmit side -/

@[simp] theorem State.withTxOf_par : (s.withTxOf t).par = t.par := rfl
@[simp] theorem State.withTxOf_encLen : (s.withTxOf t).encLen = t.encLen := rfl
@[simp] theorem State.withTxOf_txBuf : (s.withTxOf t).txBuf = t.txBuf := rfl

theorem finish_withTxOf (st : Status) (r : Word) : finish st r (s.withTxOf t) = mapNext s.withTxOf (finish st r t) := by
  simp only [finish, mapNext, State.withTxOf, State.respond, List.append_assoc]

theorem raise_withTxOf (e : ContractError) : raise e (s.withTxOf t) = mapNext s.withTxOf (raise e t) := by
  simp only [raise, mapNext, State.withTxOf, State.raiseErr, State.setErrFlag, State.respond, List.append_assoc,
    BitVec.or_assoc]

theorem encodeField_withTxOf (n : Nat) (v : Word) :
    encodeField n v (s.withTxOf t) = mapNext s.withTxOf (encodeField n v t) :=
  mapNext_ite (raise_withTxOf s t _) (mapNext_ite (raise_withTxOf s t _) (finish_withTxOf s (t.putField n v) _ _))

theorem execEncEnd_withTxOf : execEncEnd (s.withTxOf t) = mapNext s.withTxOf (execEncEnd t) := by
  refine mapNext_ite (raise_withTxOf s t _) ?_
  simp only [State.txBufWithLenStop, State.withTxOf_txBuf, State.withTxOf_encLen, State.withTxOf_par]
  split
  · rfl
  · exact finish_withTxOf s (t.finishFrame _) _ _

theorem execTxRd_withTxOf (k : Half) : execTxRd k (s.withTxOf t) = mapNext s.withTxOf (execTxRd k t) := by
  refine mapNext_ite (raise_withTxOf s t _) (mapNext_ite (raise_withTxOf s t _) ?_)
  simp only [State.withTxOf_txBuf]
  split
  · rfl
  · exact finish_withTxOf s t _ _

/-- An encoder command does to a state what it does to the transmit side of it. -/
theorem exec_withTxOf (hi : isEncoder i = true) : exec i (s.withTxOf t) = mapNext s.withTxOf (exec i t) := by
  cases i with
  | encBegin c => exact finish_withTxOf s (t.beginEncode c) _ _
  | encU8 | encI16 | encF32 => exact encodeField_withTxOf s t _ _
  | encEnd => exact execEncEnd_withTxOf s t
  | txLen => exact mapNext_ite (raise_withTxOf s t _) (finish_withTxOf s t _ _)
  | txRd k => exact execTxRd_withTxOf s t k
  | _ => cases hi

/-! ### The other commands act on the rest -/

@[simp] theorem State.withRxOf_par : (s.withRxOf t).par = t.par := rfl
@[simp] theorem State.withRxOf_rb : (s.withRxOf t).rb = t.rb := rfl
@[simp] theorem State.withRxOf_rxPay : (s.withRxOf t).rxPay = t.rxPay := rfl
@[simp] theorem State.withRxOf_decCur : (s.withRxOf t).decCur = t.decCur := rfl

theorem finish_withRxOf (st : Status) (r : Word) : finish st r (s.withRxOf t) = mapNext s.withRxOf (finish st r t) := by
  simp only [finish, mapNext, State.withRxOf, State.respond, List.append_assoc]

theorem raise_withRxOf (e : ContractError) : raise e (s.withRxOf t) = mapNext s.withRxOf (raise e t) := by
  simp only [raise, mapNext, State.withRxOf, State.raiseErr, State.setErrFlag, State.respond, List.append_assoc]

theorem execPop_withRxOf : execPop (s.withRxOf t) = mapNext s.withRxOf (execPop t) := by
  simp only [execPop, State.withRxOf_rb]
  split
  · exact finish_withRxOf s t _ _
  · exact finish_withRxOf s (t.dropFront 1) _ _

theorem execPeek_withRxOf (k : Half) : execPeek k (s.withRxOf t) = mapNext s.withRxOf (execPeek k t) := by
  simp only [execPeek, State.withRxOf_rb]
  split
  · exact raise_withRxOf s t _
  · exact finish_withRxOf s t _ _

theorem extractCandidate_withRxOf : extractCandidate (s.withRxOf t) = mapNext s.withRxOf (extractCandidate t) := by
  simp only [extractCandidate, State.withRxOf_rb, State.withRxOf_par]
  split
  · exact finish_withRxOf s t _ _
  · exact finish_withRxOf s (t.dropFront 1) _ _
  · rename_i l p _
    exact finish_withRxOf s ((t.copyPayload l p).dropFront 1) _ _
  · rename_i l p _
    exact finish_withRxOf s (((t.copyPayload l p).dropFront (4 + l.toNat)).openRxView) _ _

theorem execRxRd_withRxOf (k : Half) : execRxRd k (s.withRxOf t) = mapNext s.withRxOf (execRxRd k t) := by
  refine mapNext_ite (raise_withRxOf s t _) (mapNext_ite (raise_withRxOf s t _) ?_)
  simp only [State.withRxOf_rxPay]
  split
  · rfl
  · exact finish_withRxOf s t _ _

theorem execDecBegin_withRxOf : execDecBegin (s.withRxOf t) = mapNext s.withRxOf (execDecBegin t) := by
  refine mapNext_ite (raise_withRxOf s t _) (mapNext_ite (raise_withRxOf s t _) ?_)
  simp only [State.withRxOf_rxPay]
  split
  · rfl
  · exact finish_withRxOf s (t.setDecCur 1) _ _

theorem decodeField_withRxOf (n : Nat) : decodeField n (s.withRxOf t) = mapNext s.withRxOf (decodeField n t) := by
  refine mapNext_ite (raise_withRxOf s t _) (mapNext_ite (raise_withRxOf s t _) ?_)
  simp only [State.withRxOf_rxPay, State.withRxOf_decCur]
  split
  · rfl
  · exact finish_withRxOf s (t.setDecCur (t.decCur + BitVec.ofNat 8 n)) _ _

/-- Any other command does to a state what it does to the receive side, CRCACC and ERRFLAGS of it. -/
theorem exec_withRxOf (hi : isEncoder i = false) : exec i (s.withRxOf t) = mapNext s.withRxOf (exec i t) := by
  cases i with
  | push b => exact mapNext_ite (finish_withRxOf s t _ _) (finish_withRxOf s (t.append b) _ _)
  | pop => exact execPop_withRxOf s t
  | peek k => exact execPeek_withRxOf s t k
  | clear => exact finish_withRxOf s (t.setRb []) _ _
  | extract => exact extractCandidate_withRxOf s (t.endRxView.setRb (dropNoise t.par.start t.rb))
  | crcClr => exact finish_withRxOf s (t.setCrcAcc 0x00) _ _
  | crcUpd b => exact finish_withRxOf s (t.setCrcAcc (crc8Step t.crcAcc b)) _ _
  | rxLen => exact mapNext_ite (raise_withRxOf s t _) (finish_withRxOf s t _ _)
  | rxRd k => exact execRxRd_withRxOf s t k
  | decBegin => exact execDecBegin_withRxOf s t
  | decU8 | decI16 | decF32 => exact decodeField_withRxOf s t _
  | size | isEmpty | crcRd | errRd => exact finish_withRxOf s t _ _
  | encBegin | encU8 | encI16 | encF32 | encEnd | txLen | txRd => cases hi

end

/-! ### Two states that share one side -/

section

variable {i : Instr} {s t : State}

/-- A state is the transmit side of any state with the same one, put with its own rest. -/
theorem withTxOf_of_sameTxSide (h : SameTxSide s t) : t.withTxOf { s with errFlags := 0#8, responses := [] } = t := by
  simp only [State.withTxOf, h.par, h.encActive, h.encLen, h.txBuf, h.txReady, h.txLen, BitVec.or_zero, List.append_nil]

/-- A state is the receive side, CRCACC and ERRFLAGS of any state with the same ones, put with its own rest. -/
theorem withRxOf_of_sameRxSide (h : SameRxSide s t) (hcrc : s.crcAcc = t.crcAcc) (hflags : s.errFlags = t.errFlags) :
    t.withRxOf { s with responses := [] } = t := by
  simp only [State.withRxOf, h.par, h.rb, h.rxValid, h.rxLen, h.rxPay, h.decCur, hcrc, hflags, List.append_nil]

/-- What an encoder command does and answers is given by a state with the same transmit side (44_encoder.md R178). -/
theorem exec_next_of_sameTxSide {v : State} (hi : isEncoder i = true) (h : SameTxSide s t) (hx : exec i t = .next v) :
    ∃ w, exec i { s with errFlags := 0#8, responses := [] } = .next w ∧ v = t.withTxOf w :=
  mapNext_eq_next (by rw [← exec_withTxOf t _ hi, withTxOf_of_sameTxSide h, hx])

/-- What any other command does and answers is given by a state with the same receive side, CRCACC and ERRFLAGS
(44_encoder.md R178). -/
theorem exec_next_of_sameRxSide {v : State} (hi : isEncoder i = false) (h : SameRxSide s t) (hcrc : s.crcAcc = t.crcAcc)
    (hflags : s.errFlags = t.errFlags) (hx : exec i t = .next v) :
    ∃ w, exec i { s with responses := [] } = .next w ∧ v = t.withRxOf w :=
  mapNext_eq_next (by rw [← exec_withRxOf t _ hi, withRxOf_of_sameRxSide h hcrc hflags, hx])

/-- The same response after two lists of responses is one response. -/
theorem answered_eq_of_append {rs : List Response} {st st' : Status} {r r' : Word}
    (h : s.responses ++ rs = s.answered st r) (h' : t.responses ++ rs = t.answered st' r') : st = st' ∧ r = r' := by
  obtain rfl := List.append_cancel_left h
  simpa using List.append_cancel_left h'

end

/-- Settles O46: each command leaves the other side as it was, and its outcome is that of its own side alone. -/
theorem encoderAndReceiveSideAreIndependent : Obligations.EncoderAndReceiveSideAreIndependent := by
  refine ⟨fun i s t hi h => ?_, fun i s t hi h => ?_, fun i s s' t t' st st' r r' hi hs h h' ha ha' => ?_,
    fun i s s' t t' st st' r r' hi hs hcrc hflags h h' ha ha' => ?_⟩
  · rcases exec_next h with ⟨e, rfl⟩ | ⟨st, r, u, hp, rfl⟩
    · exact ⟨rfl, rfl, rfl, rfl, rfl, rfl⟩
    · exact { hp.sameTxSide hi with }
  · rcases exec_next h with ⟨e, rfl⟩ | ⟨st, r, u, hp, rfl⟩
    · exact ⟨⟨rfl, rfl, rfl, rfl, rfl, rfl⟩, rfl⟩
    · obtain ⟨hrx, hcrc⟩ := hp.sameRxSide hi
      exact ⟨{ hrx with }, hcrc⟩
  · obtain ⟨w, hw, rfl⟩ := exec_next_of_sameTxSide (s := s) hi ⟨rfl, rfl, rfl, rfl, rfl, rfl⟩ h
    obtain ⟨w', hw', rfl⟩ := exec_next_of_sameTxSide hi hs h'
    obtain rfl : w = w' := by simpa using hw.symm.trans hw'
    exact ⟨⟨rfl, rfl, rfl, rfl, rfl, rfl⟩, answered_eq_of_append ha ha'⟩
  · obtain ⟨w, hw, rfl⟩ := exec_next_of_sameRxSide (s := s) hi ⟨rfl, rfl, rfl, rfl, rfl, rfl⟩ rfl rfl h
    obtain ⟨w', hw', rfl⟩ := exec_next_of_sameRxSide hi hs hcrc hflags h'
    obtain rfl : w = w' := by simpa using hw.symm.trans hw'
    exact ⟨⟨rfl, rfl, rfl, rfl, rfl, rfl⟩, rfl, rfl, answered_eq_of_append ha ha'⟩

end Sys2Proof.Machine
end

section
/-! SUPPORT. The streamed encode of fields that fit (spec/44_encoder.md R177): it builds exactly the frame of its payload. -/

namespace Sys2Proof.Machine

/-- Field commands whose fields fit all answer OK and append the fields to the payload; they write TXBUF only behind its header, and
ENC_LEN (44_encoder.md R171 to R173). -/
theorem State.Encoding.runCommands_fields_ok {s : State} {p : List Byte} (h : s.Encoding p) {fs : List Field}
    (hfit : (p ++ fs.flatMap fieldBytes).length ≤ 255) :
    ∃ t, runCommands (fs.map fieldCommand) s = .next t ∧ t.Encoding (p ++ fs.flatMap fieldBytes) ∧
      t.txBuf.read 0 = s.txBuf.read 0 ∧ t = { s with
        txBuf := t.txBuf, encLen := t.encLen, responses := s.responses ++ fs.map fun _ => ⟨.ok, 0⟩ } := by
  induction fs generalizing s p with
  | nil =>
    rw [List.flatMap_nil, List.append_nil]
    refine ⟨s, rfl, h, rfl, ?_⟩
    rw [List.map_nil, List.append_nil]
  | cons f fs ih =>
    rw [List.flatMap_cons, ← List.append_assoc] at hfit ⊢
    have hf : p.length + (fieldBytes f).length ≤ 255 := by
      simp only [List.length_append] at hfit
      omega
    have hput := h.putField (fieldResult f) hf
    rw [leBytes_fieldResult] at hput
    obtain ⟨t, hrun, henc, hread, ht⟩ := ih (hput.respond .ok 0) hfit
    refine ⟨t, ?_, henc, ?_, ?_⟩
    · rw [List.map_cons, runCommands, exec_fieldCommand_eq_encodeField, encodeField_ok h.active (h.length ▸ hf)]
      exact hrun
    · rw [hread, State.respond_txBuf, read_putField, if_neg (by rw [State.fieldIndex]; omega)]
    · rw [State.respond_responses, State.putField_responses, List.append_assoc] at ht
      exact ht

/-- Settles O43: ENC_BEGIN starts a payload of one byte, the fields are appended to it, and ENC_END closes its frame. -/
theorem streamedEncodeBuildsTheFrame : Obligations.StreamedEncodeBuildsTheFrame := by
  intro s c fs hfit
  have hbegin := (State.Encoding.beginEncode s c).respond .ok 0
  obtain ⟨t, hrun, (henc : t.Encoding (payloadBytes c fs)), hread, ht⟩ := hbegin.runCommands_fields_ok hfit
  have hrx : SameRxSide s t := by rw [ht]; exact ⟨rfl, rfl, rfl, rfl, rfl, rfl⟩
  have hstart : t.txBuf.read 0 = some t.par.start := by
    rw [hread, State.respond_txBuf, read_beginEncode, if_pos rfl, hrx.par]
  have hall := calc runCommands (sendCommands c fs) s
    _ = runCommands (fs.map fieldCommand ++ [Instr.encEnd]) ((s.beginEncode c).respond .ok 0) :=
      runCommands_cons_of_performs .encBegin _
    _ = runCommands [.encEnd] t := runCommands_append hrun _
    _ = runCommands [] _ := runCommands_cons_of_performs henc.performs_encEnd _
  refine ⟨_, hall, rfl, ?_, ?_, ?_, { hrx with }, ?_⟩
  · rw [State.respond_txLen, txLen_finishFrame, henc.length]
  · rw [State.respond_txLen, txLen_finishFrame, hrx.par]
    exact readBytes_finishFrame hstart henc.payload
  · rw [henc.performs_encEnd.respond_responses, State.answered, henc.length, ht]
    simp [lengthResult]
  · rw [ht]
    exact ⟨rfl, rfl⟩

end Sys2Proof.Machine
end

section
/-! SUPPORT. The round trip (spec/44_encoder.md R179): a payload in an open receive view is decoded field by field, and a frame
alone in RB is extracted, its payload copied to RXPAY. -/

namespace Sys2Proof.Machine

/-! ### Fields of a payload -/

/-- A part of a range that is read is that part of what is read. -/
theorem Memory.readBytes_middle {m : Memory} {a : Nat} {x y z : List Byte} {n : Nat}
    (h : m.readBytes a n = some (x ++ y ++ z)) : m.readBytes (a + x.length) y.length = some y := by
  have hn := Memory.readBytes_length h
  simp only [List.length_append] at hn
  refine (Memory.readBytes_eq_some _ _ _ _).2 ⟨rfl, fun k hk => ?_⟩
  rw [Nat.add_assoc, Memory.read_of_readBytes h (by omega), List.append_assoc, List.getElem?_append_right (by omega),
    Nat.add_sub_cancel_left, List.getElem?_append_left hk]

/-- The value of a field's bytes, the low byte first, is the field's pattern (20_memory.md R52). -/
theorem leValue_fieldBytes (f : Field) : leValue (fieldBytes f) = fieldResult f := by
  cases f with
  | u8 b => exact leValue_one b
  | i16 h =>
    rw [fieldBytes, leValue_two, BitVec.extractLsb'_append_extractLsb'_eq_extractLsb' (by rfl)]
    exact congrArg (BitVec.setWidth 32) BitVec.extractLsb'_eq_self
  | f32 w =>
    rw [fieldBytes, leValue_four, BitVec.extractLsb'_append_extractLsb'_eq_extractLsb' (by rfl),
      BitVec.extractLsb'_append_extractLsb'_eq_extractLsb' (by rfl),
      BitVec.extractLsb'_append_extractLsb'_eq_extractLsb' (by rfl)]
    exact BitVec.extractLsb'_eq_self

/-- A field at the cursor is decoded, and the cursor moves past it (45_decoder.md R193 to R195). -/
theorem performs_decodeCommand {s : State} {front rest : List Byte} {f : Field} (hv : s.rxValid = true)
    (hcode : 0 < front.length) (hcur : s.decCur.toNat = front.length)
    (hp : s.rxPay.readBytes 0 s.rxLen.toNat = some (front ++ fieldBytes f ++ rest)) :
    Performs (decodeCommand f) s .ok (fieldResult f) (s.setDecCur (s.decCur + BitVec.ofNat 8 (fieldBytes f).length)) := by
  have hc : s.decCur ≠ 0 := fun h0 => hcode.ne' (hcur.symm.trans (congrArg BitVec.toNat h0))
  have hn : s.decCur.toNat + (fieldBytes f).length ≤ s.rxLen.toNat := by
    rw [← Memory.readBytes_length hp, hcur, List.length_append, List.length_append]
    exact Nat.le_add_right _ _
  have hread := Memory.readBytes_middle hp
  rw [Nat.zero_add, ← hcur] at hread
  have hmem : s.rxPay.memRead s.decCur.toNat (fieldBytes f).length = some (fieldResult f) := by
    rw [Memory.memRead, hread, Option.map_some, leValue_fieldBytes]
  cases f with
  | u8 b => exact .decU8 hv hc hn hmem
  | i16 h => exact .decI16 hv hc hn hmem
  | f32 w => exact .decF32 hv hc hn hmem

/-- The decode commands of the fields from the cursor to the end of the payload return these fields (45_decoder.md R198). -/
theorem runCommands_decodeCommands {s : State} {front : List Byte} {fs : List Field} (hv : s.rxValid = true)
    (hcode : 0 < front.length) (hcur : s.decCur.toNat = front.length)
    (hp : s.rxPay.readBytes 0 s.rxLen.toNat = some (front ++ fs.flatMap fieldBytes)) :
    runCommands (fs.map decodeCommand) s = .next { s with
      decCur := s.rxLen, responses := s.responses ++ fs.map fun f => ⟨.ok, fieldResult f⟩ } := by
  induction fs generalizing s front with
  | nil =>
    have hend : s.decCur = s.rxLen := by
      rw [List.flatMap_nil, List.append_nil] at hp
      exact BitVec.eq_of_toNat_eq (hcur.trans (Memory.readBytes_length hp))
    rw [List.map_nil, List.map_nil, List.append_nil]
    exact congrArg (fun c => Host.Outcome.next (s.setDecCur c)) hend
  | cons f fs ih =>
    rw [List.flatMap_cons, ← List.append_assoc] at hp
    have hlen := Memory.readBytes_length hp
    simp only [List.length_append] at hlen
    have hmoved : (s.decCur + BitVec.ofNat 8 (fieldBytes f).length).toNat = s.decCur.toNat + (fieldBytes f).length :=
      decCur_advance (l := s.rxLen) (by omega)
    have hf := performs_decodeCommand hv hcode hcur hp
    rw [List.map_cons, runCommands_cons_of_performs hf]
    refine (ih (s := (s.setDecCur (s.decCur + BitVec.ofNat 8 (fieldBytes f).length)).respond .ok (fieldResult f)) hv
      (by rw [List.length_append]; omega) (by rw [List.length_append, ← hcur]; exact hmoved) hp).trans ?_
    rw [hf.respond_responses, State.answered, List.append_assoc]
    rfl

/-- DEC_BEGIN and the decode commands of its fields return the code and the fields of a payload (45_decoder.md R192, R198). -/
theorem runCommands_decode_payload {s : State} {c : Byte} {fs : List Field} (hv : s.rxValid = true)
    (hp : s.rxPay.readBytes 0 s.rxLen.toNat = some (payloadBytes c fs)) :
    runCommands (.decBegin :: fs.map decodeCommand) s = .next { s with
      decCur := s.rxLen
      responses := s.responses ++ ⟨.ok, c.setWidth 32⟩ :: fs.map fun f => ⟨.ok, fieldResult f⟩ } := by
  have hpos : 1 ≤ s.rxLen.toNat := by
    rw [← Memory.readBytes_length hp]
    exact Nat.succ_pos _
  have hcode : s.rxPay.read 0 = some c := Memory.read_of_readBytes hp hpos
  have hbegin : Performs .decBegin s .ok (c.setWidth 32) (s.setDecCur 1) := .decBegin hv hpos hcode
  rw [runCommands_cons_of_performs hbegin]
  refine (runCommands_decodeCommands (s := (s.setDecCur 1).respond .ok (c.setWidth 32)) (front := [c]) hv Nat.one_pos rfl
    hp).trans ?_
  rw [hbegin.respond_responses, State.answered, List.append_assoc]
  rfl

/-! ### A frame alone in RB -/

/-- The length byte of a payload that fits is its length. -/
theorem ofNat_length_toNat {p : List Byte} (hp : p.length ≤ 255) : (BitVec.ofNat 8 p.length).toNat = p.length := by
  rw [BitVec.toNat_ofNat]
  omega

/-- EXTRACT takes a frame that stands alone in RB (43_frame_parser.md R145, R146). -/
theorem performs_extract_of_frameBytes {s : State} {p : List Byte} (hrb : s.rb = frameBytes s.par p) (hp : p.length ≤ 255) :
    Performs .extract s .frame (BitVec.ofNat 32 p.length)
      ((s.endRxView.setRb []).copyPayload (BitVec.ofNat 8 p.length) p).openRxView := by
  have hnoise : dropNoise s.par.start s.rb = frameBytes s.par p := by
    rw [hrb]
    exact dropNoise_append (noise := []) (by simp) (.inr ⟨_, rfl⟩)
  have hresult : byteResult (BitVec.ofNat 8 p.length) = BitVec.ofNat 32 p.length := by
    rw [byteResult, ← BitVec.ofNat_toNat, ofNat_length_toNat hp]
  exact hresult ▸ performs_extract_of_frame hnoise (ofNat_length_toNat hp).symm

/-- The bytes of a frame, pushed into an empty RB with room for them, are extracted whole, and the payload can be read
(44_encoder.md R179). -/
theorem runCommands_push_extract {s : State} {p : List Byte} (hempty : s.rb = []) (hp : p.length ≤ 255)
    (hcap : 4 + p.length ≤ s.cap) :
    ∃ u, runCommands ((frameBytes s.par p).map .push ++ [.extract]) s = .next u ∧ u.rb = [] ∧ u.rxValid = true ∧
      u.rxPay.readBytes 0 u.rxLen.toNat = some p ∧
      u.responses = s.responses ++ (frameBytes s.par p).map (fun _ => ⟨.ok, 0⟩) ++
        [⟨.frame, BitVec.ofNat 32 p.length⟩] := by
  have hroom : s.count + (frameBytes s.par p).length ≤ s.cap := by
    rw [frameBytes_length, State.count, hempty, List.length_nil]
    omega
  have hpush := runCommands_push hroom
  rw [hempty, List.nil_append] at hpush
  have hextract := performs_extract_of_frameBytes (s := { s with
    rb := frameBytes s.par p, responses := s.responses ++ (frameBytes s.par p).map fun _ => ⟨.ok, 0⟩ }) rfl hp
  have hpay := Memory.readBytes_writeBytes_self s.rxPay 0 p
  rw [← ofNat_length_toNat hp] at hpay
  exact ⟨_, (runCommands_append hpush _).trans (runCommands_cons_of_performs hextract []), rfl, rfl, hpay, rfl⟩

/-- Settles O52: the frame is encoded, its bytes are pushed and extracted, and the payload is decoded. -/
theorem encodeLoopbackDecodeRoundTrip : Obligations.EncodeLoopbackDecodeRoundTrip := by
  intro s c fs hempty hfit hcap
  obtain ⟨t, hsend, -, -, hframe, -, hrx, -⟩ := streamedEncodeBuildsTheFrame s c fs hfit
  rw [hrx.par] at hframe
  rw [State.cap, hrx.par] at hcap
  obtain ⟨u, hloop, hrb, hvalid, hpay, hresp⟩ := runCommands_push_extract (hrx.rb.symm.trans hempty) hfit hcap
  have hall := (runCommands_append hloop _).trans (runCommands_decode_payload hvalid hpay)
  rw [List.append_assoc] at hall
  refine ⟨t, _, _, hsend, hframe, hall, hrb, hpay, ?_⟩
  rw [hresp, List.append_assoc _ _ (_ :: _)]
  rfl

end Sys2Proof.Machine
end

section
/-! SUPPORT. The commands of the decoder one by one (spec/45_decoder.md R190 to R195), and the payload they read back (R198). -/

namespace Sys2Proof.Machine

/-! ### The receive view -/

/-- RX_LEN and RX_RD without a received payload are out of sequence (45_decoder.md R190, R191). -/
theorem exec_rxRead_seq {s : State} {i : Half} (h : s.rxValid = false) :
    ∀ j ∈ [Instr.rxLen, Instr.rxRd i], exec j s = .next (s.raiseErr .seq) :=
  List.forall_mem_cons.2 ⟨if_pos h, List.forall_mem_singleton.2 (if_pos h)⟩

/-- RX_RD past the end of the payload is refused (45_decoder.md R191). -/
theorem exec_rxRd_range {s : State} {i : Half} (h : s.rxValid = true) (hi : s.rxLen.toNat ≤ i.toNat) :
    exec (.rxRd i) s = .next (s.raiseErr .range) := by
  rw [exec, execRxRd, if_neg (by simp [h]), indexOperand, if_pos hi, raise]

/-- RX_LEN answers RXLEN, zero-extended (45_decoder.md R190). -/
theorem performs_rxLen {s : State} (h : s.rxValid = true) : Performs .rxLen s .ok (s.rxLen.setWidth 32) s := by
  simpa only [lengthResult, BitVec.ofNat_toNat] using Performs.rxLen h

/-! ### DEC_BEGIN -/

/-- DEC_BEGIN on an empty payload finds no code (45_decoder.md R192). -/
theorem exec_decBegin_short {s : State} (h : s.rxValid = true) (hl : s.rxLen = 0) :
    exec .decBegin s = .next (s.raiseErr .decShort) := by
  rw [exec, execDecBegin, if_neg (by simp [h]), if_pos (by simp [hl]), raise]

/-! ### Field commands -/

/-- A field command without a received payload, or before DEC_BEGIN, is out of sequence (45_decoder.md R193 to R195). -/
theorem decodeField_seq {n : Nat} {s : State} (h : s.rxValid = false ∨ s.decCur = 0) :
    decodeField n s = .next (s.raiseErr .seq) :=
  if_pos h

/-- A field that reaches past the end of the payload is refused (45_decoder.md R193 to R195). -/
theorem decodeField_short {n : Nat} {s : State} (h : s.rxValid = true) (hc : s.decCur ≠ 0)
    (hn : s.rxLen.toNat < s.decCur.toNat + n) : decodeField n s = .next (s.raiseErr .decShort) := by
  rw [decodeField, if_neg (not_or.2 ⟨by simp [h], hc⟩), if_pos hn, raise]

/-- An empty range holds no bytes. -/
theorem Memory.readBytes_zero {m : Memory} {a : Nat} : m.readBytes a 0 = some [] := rfl

/-- Consecutive bytes are read one after the other. -/
theorem Memory.readBytes_succ {m : Memory} {a n : Nat} {b : Byte} {bs : List Byte} (hb : m.read a = some b)
    (hbs : m.readBytes (a + 1) n = some bs) : m.readBytes a (n + 1) = some (b :: bs) := by
  simp only [Memory.readBytes, hb, hbs]

/-- `MemRead` answers the value of the bytes that its range holds (00_scope.md R15). -/
theorem Memory.memRead_of_readBytes {m : Memory} {a n : Nat} {bs : List Byte} (h : m.readBytes a n = some bs) :
    m.memRead a n = some (leValue bs) := by
  rw [Memory.memRead, h, Option.map_some]

/-! ### The statements -/

/-- Settles O51: the payload is as long as RXLEN says, so it is read from the code to its last field. -/
theorem decodingReversesEncoding : Obligations.DecodingReversesEncoding := fun _ _ _ hv _ hp =>
  runCommands_decode_payload hv hp

/-- Settles O47: without a received payload both end in ERR_SEQ; with one, RX_LEN reads its length and RX_RD a byte below it. -/
theorem rxLenAndRxRdReadThePayload : Obligations.RxLenAndRxRdReadThePayload := fun _ _ =>
  ⟨decode_encode .rxLen, decode_of_operand 0x51 (by decide) rfl (by decide) rfl, exec_rxRead_seq,
    fun h => (performs_rxLen h).exec_eq, exec_rxRd_range, fun _ h hi hb => (Performs.rxRd h hi hb).exec_eq⟩

/-- Settles O48: no payload, an empty payload, and one with a code are DEC_BEGIN's three cases. -/
theorem decBeginReturnsTheCode : Obligations.DecBeginReturnsTheCode := fun _ =>
  ⟨decode_encode .decBegin, fun h => if_pos h, exec_decBegin_short,
    fun _ h hl hb => (Performs.decBegin h hl hb).exec_eq⟩

/-- Settles O49: the errors are those of a field read of any size; a field that is there has the value of its bytes, read from the
cursor on. -/
theorem decodeFieldsReadLowByteFirst : Obligations.DecodeFieldsReadLowByteFirst := by
  refine fun s b0 b1 b2 b3 => ⟨decode_encode .decU8, decode_encode .decI16, decode_encode .decF32, fun i n hin => ?_,
    fun hv hc h0 => ⟨fun hn => ?_, fun hn h1 => ?_, fun hn h1 h2 h3 => ?_⟩⟩
  · have hfield : exec i s = decodeField n s := by
      rcases hin with ⟨rfl, rfl⟩ | ⟨rfl, rfl⟩ | ⟨rfl, rfl⟩ <;> rfl
    exact ⟨fun h => hfield.trans (decodeField_seq h), fun hv hc hn => hfield.trans (decodeField_short hv hc hn)⟩
  · have hmem := Memory.memRead_of_readBytes (Memory.readBytes_succ h0 Memory.readBytes_zero)
    rw [leValue_one] at hmem
    exact (Performs.decU8 hv hc hn hmem).exec_eq
  · have hmem := Memory.memRead_of_readBytes (Memory.readBytes_succ h0 (Memory.readBytes_succ h1 Memory.readBytes_zero))
    rw [leValue_two] at hmem
    exact (Performs.decI16 hv hc hn hmem).exec_eq
  · have hmem := Memory.memRead_of_readBytes (Memory.readBytes_succ h0 (Memory.readBytes_succ h1
      (Memory.readBytes_succ h2 (Memory.readBytes_succ h3 Memory.readBytes_zero))))
    rw [leValue_four] at hmem
    exact (Performs.decF32 hv hc hn hmem).exec_eq

end Sys2Proof.Machine
end

section
/-! SUPPORT. ERR_RD (spec/46_status.md R210): which bits the record of contract errors can hold, and the reserved words of the opcode. -/

namespace Sys2Proof

/-- A command without operand reserves every bit of ARG, so its opcode above an ARG other than 0 is an ERR_RESERVED word
(30_encoding.md R73). -/
theorem decode_reserved_of_form_n {op : Byte} {base : CommandWord} {a : Word} (hop : op.toNat ∈ formOpcodes .n)
    (hbase : op.setWidth 40 <<< 32 = base) (ha : a ≠ 0) : decode (base ||| a.setWidth 40) = .error .reserved := by
  rw [← hbase, decode_eq_reserved_iff, opField_cat, argField_cat]
  have hpos : 1 ≤ a.toNat := Nat.one_le_iff_ne_zero.2 fun h => ha (BitVec.eq_of_toNat_eq h)
  exact ⟨.n, hop, hpos⟩

end Sys2Proof

namespace Sys2Proof.Machine

/-- The bit of a contract error is one of ERRFLAGS[5:0] (10_state.md R34, 60_exceptions.md R220). -/
theorem errBit_and_low (e : ContractError) : errBit e &&& 0x3F = errBit e := by
  cases e <;> decide

/-- The record of contract errors lies in ERRFLAGS[5:0]: each response adds the bit of an error or nothing. -/
theorem errSummary_and_low (rs : List Response) : errSummary rs &&& 0x3F = errSummary rs := by
  induction rs using List.reverseRecOn with
  | nil => rfl
  | append_singleton rs r ih =>
    obtain ⟨st, r⟩ := r
    by_cases herr : ∃ e, st = .error e
    · obtain ⟨e, rfl⟩ := herr
      rw [errSummary_append_error, BitVec.and_or_distrib_right, ih, errBit_and_low]
    · rw [errSummary_append_other rs r (not_exists.1 herr), ih]

/-- What ERR_RD reads is the whole record of contract errors: no bit of it is hidden by the hardwired zeros (10_state.md R34). -/
theorem State.ErrFlagsRecord.errFlagsRead_eq {s : State} (h : s.ErrFlagsRecord) : s.errFlagsRead = errSummary s.responses := by
  rw [State.errFlagsRead, show s.errFlags = _ from h, errSummary_and_low]

/-- Settles O17: ERR_RD has one case, which answers ERRFLAGS as it reads; under the record of O18 that is the OR of the errors' bits. -/
theorem errRdReturnsTheStickyFlags : Obligations.ErrRdReturnsTheStickyFlags := fun s =>
  ⟨decode_encode .errRd, fun _ => decode_reserved_of_form_n (op := 0x60) (by decide) rfl, Performs.errRd.exec_eq,
    fun h => h.errFlagsRead_eq ▸ (Performs.errRd (s := s)).exec_eq⟩

end Sys2Proof.Machine
end

section
/-! SUPPORT. Contract errors (spec/60_exceptions.md R221 to R224): what a step's response tells about its effect, which steps leave
ERRFLAGS as it was, and which error each command signals in which state. -/

namespace Sys2Proof.Machine

/-! ### The effect of a step on ERRFLAGS -/

/-- `step_command_next` for a command whose response is known: the response says which of its cases it was. -/
theorem step_command_next_answered {s t : State} {w : CommandWord} {rest : List Input} {st : Status} {r : Word}
    (hi : s.inputs = .command w :: rest) (h : step s = .next t) (ha : t.responses = s.answered st r) :
    (∃ e, st = .error e ∧ r = 0 ∧ t = (s.takeInput rest).raiseErr e) ∨
      ∃ i u, Performs i (s.takeInput rest) st r u ∧ t = u.respond st r := by
  rcases step_command_next hi h with ⟨e, rfl⟩ | ⟨i, st', r', u, -, hp, rfl⟩
  · obtain ⟨rfl, rfl⟩ := State.answered_inj.1 ha
    exact .inl ⟨e, rfl, rfl, rfl⟩
  · obtain ⟨rfl, rfl⟩ := State.answered_inj.1 (hp.respond_responses.symm.trans ha)
    exact .inr ⟨i, u, hp, rfl⟩

/-- A step on a presented command leaves ERRFLAGS as it was or sets the bit of one error (10_state.md R34). -/
theorem errFlags_of_step_command {s t : State} {w : CommandWord} {rest : List Input} (hi : s.inputs = .command w :: rest)
    (h : step s = .next t) : t.errFlags = s.errFlags ∨ ∃ e, t.errFlags = s.errFlags ||| errBit e := by
  rcases step_command_next hi h with ⟨e, rfl⟩ | ⟨i, st, r, u, -, hp, rfl⟩
  · exact .inr ⟨e, rfl⟩
  · obtain ⟨-, hflags, -⟩ := hp.same
    exact .inl hflags

/-- Setting bits clears none. -/
theorem and_or_self_left (x y : Byte) : x &&& (x ||| y) = x := by
  ext k hk
  simpa using Or.inl

/-- Settles O10: a reset event has one case; in any other step the core idles or a command leaves ERRFLAGS or sets a bit of it. -/
theorem onlyResetClearsErrFlags : Obligations.OnlyResetClearsErrFlags := by
  refine fun s => ⟨fun rest hi => by rw [step, hi]; rfl, fun t hreset h => ?_⟩
  cases hi : s.inputs with
  | nil =>
    obtain rfl : s = t := by simpa [step, hi] using h
    exact BitVec.and_self
  | cons event rest =>
    cases event with
    | reset => exact absurd hi (hreset rest)
    | command w =>
      rcases errFlags_of_step_command hi h with hflags | ⟨e, hflags⟩
      · rw [hflags, BitVec.and_self]
      · rw [hflags, and_or_self_left]

/-- Settles O14: the response of a contract error is given by `raiseErr` only. -/
theorem contractErrorHasNoOtherEffect : Obligations.ContractErrorHasNoOtherEffect := by
  intro s t w rest e r hi h ha
  rcases step_command_next_answered hi h ha with ⟨e', he, hr, rfl⟩ | ⟨i, u, hp, -⟩
  · cases he
    exact ⟨hr, rfl⟩
  · exact absurd rfl (hp.not_error e)

/-- Settles O15: any other response is that of a command that is performed, which does not write ERRFLAGS. -/
theorem otherOutcomesSetNoErrFlag : Obligations.OtherOutcomesSetNoErrFlag := by
  intro s t w rest st r hi h ha hst
  rcases step_command_next_answered hi h ha with ⟨e, he, -⟩ | ⟨i, u, hp, rfl⟩
  · exact absurd he (hst e)
  · obtain ⟨-, hflags, -⟩ := hp.same
    exact hflags

/-! ### The contract error of a command -/

/-- The error of a field command of the encoder for `n` bytes (60_exceptions.md R221, R223). -/
def State.encodeError (s : State) (n : Nat) : Option ContractError :=
  if s.encActive = false then some .seq else if 255 < s.encLen.toNat + n then some .encOvf else none

/-- The error of a field command of the decoder for `n` bytes (60_exceptions.md R221, R223). -/
def State.decodeError (s : State) (n : Nat) : Option ContractError :=
  if s.rxValid = false ∨ s.decCur = 0 then some .seq
  else if s.rxLen.toNat < s.decCur.toNat + n then some .decShort
  else none

/-- The contract error that a well-formed command signals in a state: the first of its causes in the order of the checks, `none`
where it has none (60_exceptions.md R221, R223). -/
def State.contractError (s : State) : Instr → Option ContractError
  | .peek k => if s.count ≤ k.toNat then some .range else none
  | .encU8 _ => s.encodeError 1
  | .encI16 _ => s.encodeError 2
  | .encF32 _ => s.encodeError 4
  | .encEnd => if s.encActive = false then some .seq else none
  | .txLen => if s.txReady = false then some .seq else none
  | .txRd k => if s.txReady = false then some .seq else if s.txLen.toNat ≤ k.toNat then some .range else none
  | .rxLen => if s.rxValid = false then some .seq else none
  | .rxRd k => if s.rxValid = false then some .seq else if s.rxLen.toNat ≤ k.toNat then some .range else none
  | .decBegin => if s.rxValid = false then some .seq else if s.rxLen.toNat < 1 then some .decShort else none
  | .decU8 => s.decodeError 1
  | .decI16 => s.decodeError 2
  | .decF32 => s.decodeError 4
  | .push _ | .pop | .size | .isEmpty | .clear | .extract | .crcClr | .crcUpd _ | .crcRd | .encBegin _ | .errRd => none

/-- The result `x` of a command on `s` is the contract error `c`; with `c = none` it is no contract error. -/
def Signals (s : State) (x : Result) (c : Option ContractError) : Prop := ∀ e, x = raise e s ↔ c = some e

/-- The response tells the contract errors apart. -/
theorem raise_inj {s : State} {e e' : ContractError} : raise e s = raise e' s ↔ e = e' := by
  refine ⟨fun h => ?_, congrArg (raise · s)⟩
  have hresp := congrArg State.responses (raise_eq_next.1 h.symm)
  simpa using hresp

section

variable {s : State}

/-- A raised error is signalled. -/
theorem signals_raise {e : ContractError} : Signals s (raise e s) (some e) := fun _ => by rw [raise_inj, Option.some_inj]

/-- A check that fails signals its error, and one that passes leaves it to the rest of the command. -/
theorem signals_check {p : Prop} [Decidable p] {e : ContractError} {x : Result} {c : Option ContractError}
    (h : Signals s x c) : Signals s (if p then raise e s else x) (if p then some e else c) := by
  split
  · exact signals_raise
  · exact h

/-- An outcome that is no contract error signals none. -/
theorem signals_finish {u : State} {st : Status} {r : Word} (hst : ∀ e, st ≠ .error e) (hu : u.responses = s.responses) :
    Signals s (finish st r u) none := by
  refine fun e => iff_of_false (fun h => hst e ?_) nofun
  have hresp := congrArg State.responses (finish_eq_next.1 h)
  rw [State.raiseErr_responses, State.respond_responses, hu] at hresp
  exact (State.answered_inj.1 hresp).1.symm

/-- A command that is performed signals no contract error. -/
theorem Performs.signals {i : Instr} {u : State} {st : Status} {r : Word} (h : Performs i s st r u) :
    Signals s (exec i s) none := by
  obtain ⟨-, -, -, hresp⟩ := h.same
  exact h.exec_eq ▸ signals_finish h.not_error hresp

/-- A stop signals no contract error. -/
theorem signals_fault {f : Fault} : Signals s (.fault f) none := fun _ => iff_of_false nofun nofun

theorem encodeField_signals (n : Nat) (v : Word) : Signals s (encodeField n v s) (s.encodeError n) :=
  signals_check (signals_check (signals_finish nofun rfl))

theorem decodeField_signals (n : Nat) : Signals s (decodeField n s) (s.decodeError n) := by
  refine signals_check (signals_check ?_)
  split
  · exact signals_fault
  · exact signals_finish nofun rfl

/-- Every command signals the contract error of its first cause, and none without a cause (60_exceptions.md R221, R223). -/
theorem exec_signals (i : Instr) : Signals s (exec i s) (s.contractError i) := by
  cases i with
  | push b =>
    simp only [exec, execPush]
    split <;> exact signals_finish nofun rfl
  | pop =>
    simp only [exec, execPop]
    split <;> exact signals_finish nofun rfl
  | peek k =>
    by_cases hk : s.count ≤ k.toNat
    · rw [State.contractError, if_pos hk, exec_peek_of_count_le hk]
      exact signals_raise
    · rw [State.contractError, if_neg hk]
      exact (Performs.peek (List.getElem?_eq_getElem (Nat.lt_of_not_le hk))).signals
  | extract =>
    obtain ⟨st, r, u, hp, -⟩ := exec_extract_performs s
    exact hp.signals
  | encU8 | encI16 | encF32 => exact encodeField_signals _ _
  | encEnd =>
    refine signals_check ?_
    split
    · exact signals_fault
    · exact signals_finish nofun rfl
  | txLen | rxLen => exact signals_check (signals_finish nofun rfl)
  | txRd | rxRd | decBegin =>
    refine signals_check (signals_check ?_)
    split
    · exact signals_fault
    · exact signals_finish nofun rfl
  | decU8 | decI16 | decF32 => exact decodeField_signals _
  | size | isEmpty | clear | crcClr | crcUpd | crcRd | encBegin | errRd => exact signals_finish nofun rfl

end

/-- A command's response is a contract error exactly when it is the error that `contractError` gives. -/
theorem answered_error_iff {i : Instr} {s t : State} {st : Status} {r : Word} (h : exec i s = .next t)
    (ha : t.responses = s.answered st r) (e : ContractError) : st = .error e ↔ s.contractError i = some e := by
  rw [← exec_signals i e, h]
  rcases exec_next_answered h ha with ⟨e', rfl, -, rfl⟩ | ⟨u, hp, rfl⟩
  · rw [Status.error.injEq]
    exact raise_inj.symm
  · rw [← hp.exec_eq, hp.signals e]
    exact iff_of_false (hp.not_error e) nofun

/-! ### The causes of a contract error -/

/-- Of two checks in order the first is the cause of ERR_SEQ, and the second, where the first passes, that of its own error
(60_exceptions.md R223). -/
theorem seq_then_eq_some_iff {p q : Prop} [Decidable p] [Decidable q] {e e' : ContractError} :
    (if p then some .seq else if q then some e else none) = some e' ↔ (e' = .seq ∧ p) ∨ (e' = e ∧ ¬ p ∧ q) := by
  by_cases hp : p <;> by_cases hq : q <;> simp [hp, hq, eq_comm]

/-- A length byte of value 0 is the byte 0. -/
theorem toNat_eq_zero_iff {b : Byte} : b.toNat = 0 ↔ b = 0 := BitVec.toNat_inj (y := 0#8)

/-- Settles O16: the response is an error exactly when `contractError` says so, which for each kind of command is the list of causes
in R221. -/
theorem contractErrorsHaveTheirListedCauses : Obligations.ContractErrorsHaveTheirListedCauses := by
  intro i s t st r h ha
  have hcause := answered_error_iff h ha
  rw [ne_eq, ne_eq, hcause, hcause, hcause, hcause, hcause, hcause]
  cases i with
  | peek | encEnd | txLen | rxLen => simp [State.contractError]
  | txRd | rxRd => simp [State.contractError, seq_then_eq_some_iff]
  | encU8 | encI16 | encF32 => simp [State.contractError, State.encodeError, seq_then_eq_some_iff]
  | decBegin => simp [State.contractError, seq_then_eq_some_iff, toNat_eq_zero_iff]
  | decU8 | decI16 | decF32 =>
    cases hv : s.rxValid <;> simp [State.contractError, State.decodeError, seq_then_eq_some_iff, hv]
  | push | pop | size | isEmpty | clear | extract | crcClr | crcUpd | crcRd | encBegin | errRd => simp [State.contractError]

end Sys2Proof.Machine
end

section
/-! SUPPORT. Reset (spec/70_reset_and_hazards.md R250 to R252): what the state after reset holds, and the parameters that it and every
other step leave as they are. -/

namespace Sys2Proof.Machine

/-- A command that is performed answers with the same START, STOP and CAP. -/
theorem Performs.respond_par {i : Instr} {s u : State} {st : Status} {r : Word} (h : Performs i s st r u) :
    (u.respond st r).par = s.par := by
  obtain ⟨hpar, -⟩ := h.same
  rw [State.respond_par, hpar]

/-- Settles O11: to have the parameters of `s` survives each kind of event, so a step from `s` keeps it. -/
theorem parametersNeverChange : Obligations.ParametersNeverChange := fun s _ h =>
  step_keeps (P := fun u => u.par = s.par)
    (htake := fun u rest hu => (u.takeInput_par rest).trans hu)
    (hreset := fun u rest hu => (u.applyReset_par rest).trans hu)
    (herr := fun u e hu => (u.raiseErr_par e).trans hu)
    (hperf := fun _ _ _ _ _ hu hp => hp.respond_par.trans hu) rfl h

/-- Settles O9: the registers are those that R250 names, and a store without cells holds no value at any index (R27, R31). -/
theorem resetRegisterValues : Obligations.ResetRegisterValues := fun _ =>
  ⟨rfl, rfl, rfl, rfl, rfl, rfl, rfl, rfl, rfl, rfl, rfl, Memory.read_nil, Memory.read_nil, rfl⟩

/-- Settles O55: reset gives the invariant for all parameters, the open ones among them. -/
theorem invariantHoldsAtReset : Obligations.InvariantHoldsAtReset :=
  ⟨State.inv_resetWith, State.inv_resetWith Config.params⟩

end Sys2Proof.Machine
end
